-- ==== Sys2Proof/Word.lean ====
section
/-! DEFINITION. The word types of DPE (spec/00_scope.md R8: bit 0 is the least significant bit). -/

namespace Sys2Proof

/-- An unsigned 16-bit value: a raw sample field or a table operand (R5). -/
abbrev U16 := BitVec 16

/-- A 32-bit register or table value; read as two's complement by `toInt` where the spec says s32 (R8, R21). -/
abbrev Word32 := BitVec 32

/-- A node of the multiply, add and divide chain at the width the spec fixes, W_MAC = 64 (R7). -/
abbrev Word64 := BitVec 64

/-- A command word `CMD[35:0]` (R44). -/
abbrev CmdWord := BitVec 36

/-- The status register `STATUS[5:0]` (R22). -/
abbrev StatusWord := BitVec 6

end Sys2Proof
end

