-- ==== Sys2Proof/Config.lean ====
section
/-! DEFINITION. What is fixed for the machine: the shape of a table entry, the hardwired constants, and the values the spec leaves free. -/

namespace Sys2Proof

/-- One 48-bit entry of the table ROM (R15, R32): `operand` unsigned, `value` read as s32. -/
structure LutEntry where
  operand : U16
  value : Word32
  deriving DecidableEq, Repr

namespace Config

/-! ## The constant ROM (R5, R19): hardwired, no address -/

/-- N_LUT, the number of table entries. -/
def lutLength : Nat := 101
/-- Q, the Q16 scale and whole-unit divisor. -/
def q16One : Int := 65536
/-- Temperature slope. -/
def tempSlope : Int := 165
/-- Temperature offset, `40 * 65536`. -/
def tempOffset : Int := 2621440
/-- Fahrenheit multiplier. -/
def fahrMul : Int := 9
/-- Fahrenheit divisor. -/
def fahrDiv : Int := 5
/-- Fahrenheit offset, `32 * 65536`. -/
def fahrOffset : Int := 2097152
/-- Humidity scale. -/
def humScale : Int := 100
/-- Dew-point constant A. -/
def dewA : Int := 15927869
/-- Dew-point constant B. -/
def dewB : Int := 1155072

/-! ## Free values (no body: nothing can be proved of them) -/

/-- What SAMPLE holds after the n-th host reset: unspecified (R112, 93 U6). DESIGN CHOICE of form, log entry 4. -/
opaque freeSample : Nat → Word32

/-- What RESULT holds after the n-th host reset: unspecified (R112, 93 U6). DESIGN CHOICE of form, log entry 4. -/
opaque freeResult : Nat → Word32

/-- `x sdiv 0`, which the spec leaves without a meaning and forbids to define as 0 (93 U10); the integer chain and the 64-bit word chain both use it. DESIGN CHOICE of form, log entry 8. -/
opaque sdivByZero : Int → Int

end Config
end Sys2Proof
end

