-- ==== Sys2Proof/Machine/FixedPoint.lean ====
section
/-! DEFINITION. The shared fixed-point functions (spec/00_scope.md R9, R10, R12, R13), over the integers; RESULT takes the low 32 bits once, at the end. DEDUCED, log entry 17. -/

namespace Sys2Proof.Machine

/-- `a sdiv b`, truncating toward zero (R10). Division by 0 has no meaning (93 U10): a free value, never reached under LutWF (R97; log entry 8). -/
def sdiv (a b : Int) : Int := if b = 0 then Config.sdivByZero a else Int.tdiv a b

/-- `tempQ16(t) = t * 165 - 2621440` (R59). -/
def tempQ16 (t : U16) : Int := (t.toNat : Int) * Config.tempSlope - Config.tempOffset

/-- `whole(q) = q sdiv 65536` (R60). -/
def whole (q : Int) : Int := sdiv q Config.q16One

/-- `fahrQ16(c) = ((c * 9) sdiv 5) + 2097152`, the multiplication first (R61). -/
def fahrQ16 (c : Int) : Int := sdiv (c * Config.fahrMul) Config.fahrDiv + Config.fahrOffset

/-- `rhQ16(h) = h * 100` (R69). -/
def rhQ16 (h : U16) : Int := (h.toNat : Int) * Config.humScale

/-- The 32-bit two's-complement pattern that RESULT takes (R7, R21). -/
def toResult (v : Int) : Word32 := BitVec.ofInt 32 v

end Sys2Proof.Machine
end

