-- ==== Sys2Proof/Machine/DewChain.lean ====
section
/-! DEFINITION. The dew-point chain, one operation at a time (spec/44_dew_point.md R84 to R90). -/

namespace Sys2Proof.Machine

/-- Step 4, `M = P sdiv S` with `P = B * T` and `S = A + T` (R86, R87, R88); computed once. -/
def dewM (T : Int) : Int := sdiv (Config.dewB * T) (Config.dewA + T)

/-- Step 5, `G = lnRh + M` (R89). -/
def dewG (T lnRh : Int) : Int := lnRh + dewM T

/-- Step 6, `dewQ16(T, lnRh) = NUM sdiv DEN` with `NUM = A * G`, `DEN = B - G` (R90): the product first, then the division. -/
def dewQ16 (T lnRh : Int) : Int := sdiv (Config.dewA * dewG T lnRh) (Config.dewB - dewG T lnRh)

end Sys2Proof.Machine
end

