-- ==== Sys2Proof/Machine/LogLookup.lean ====
section
/-! DEFINITION. The logarithm lookup (spec/43_ln_lookup.md R75): bucket selection, no interpolation (R79). -/

namespace Sys2Proof.Machine

/-- The result of the lookup (R75). -/
inductive Found where
  | hit (i : Nat)
  | miss
  deriving DecidableEq, Repr

/-- The search from the bucket with index `i`, whose edges are the first two operands of the list; unsigned comparisons, lower edge open, upper edge closed.
Ascending order, which cannot be observed under LutWF (R76, log entry 11). -/
def scanBuckets (h : U16) (i : Nat) : List LutEntry → Found
  | lo :: hi :: rest =>
    if lo.operand < h ∧ h ≤ hi.operand then .hit i else scanBuckets h (i + 1) (hi :: rest)
  | [_] => .miss
  | [] => .miss

/-- `lookup(h)`: `hit(i)` for the i in 1 to 100 with `LUT[i-1].operand < h <= LUT[i].operand`, else `miss` (R75). -/
def lookup (t : List LutEntry) (h : U16) : Found := scanBuckets h 1 t

/-- `LUT[i].value`, the value of the bucket's upper edge; 0 beyond the table, where no hit of a well-formed table points (R37). DESIGN CHOICE, log entry 19. -/
def lutValue (t : List LutEntry) (i : Nat) : Word32 :=
  match t[i]? with
  | some e => e.value
  | none => 0#32

end Sys2Proof.Machine
end

