-- ==== Sys2Proof/Syntax.lean ====
section
/-! DEFINITION. The twelve commands of DPE (spec/30_encoding.md R46, R47), one constructor per row of the opcode table. -/

namespace Sys2Proof

/-- A command. LDS is the only one with an operand in the word (R48). -/
inductive Instr where
  /-- Temperature Celsius, whole degrees (R63). -/
  | tc
  /-- Temperature Celsius, Q16 (R62). -/
  | tcq
  /-- Temperature Fahrenheit, whole degrees (R65). -/
  | tf
  /-- Temperature Fahrenheit, Q16 (R64). -/
  | tfq
  /-- Relative humidity, whole percent (R71). -/
  | rh
  /-- Relative humidity, Q16 (R70). -/
  | rhq
  /-- Dew point Celsius, whole degrees (R93). -/
  | dc
  /-- Dew point Celsius, Q16 (R92). -/
  | dcq
  /-- Dew point Fahrenheit, whole degrees (R96). -/
  | df
  /-- Dew point Fahrenheit, Q16 (R94). -/
  | dfq
  /-- Load sample; the argument is the sample frame as a big-endian word (R57). -/
  | lds (arg : Word32)
  /-- Logarithm of the humidity fraction, Q16 (R81). -/
  | lnh
  deriving DecidableEq, Repr

/-- A conversion command: any defined command other than LDS (R51 step 3). -/
def Instr.isConversion : Instr → Bool
  | .tc => true
  | .tcq => true
  | .tf => true
  | .tfq => true
  | .rh => true
  | .rhq => true
  | .dc => true
  | .dcq => true
  | .df => true
  | .dfq => true
  | .lds _ => false
  | .lnh => true

/-- A command that performs the table lookup (R23, R33). -/
def Instr.usesLookup : Instr → Bool
  | .tc => false
  | .tcq => false
  | .tf => false
  | .tfq => false
  | .rh => false
  | .rhq => false
  | .dc => true
  | .dcq => true
  | .df => true
  | .dfq => true
  | .lds _ => false
  | .lnh => true

end Sys2Proof
end

