-- ==== Sys2Proof/Decode.lean ====
section
/-! DEFINITION. Command words: fields, decoder, encoder, opcode map (spec/30_encoding.md R44 to R50). -/

namespace Sys2Proof

/-- Why a word is illegal (R49). Both raise IllegalCommand; the machine does not keep the reason. DESIGN CHOICE, log entry 18. -/
inductive Illegal where
  /-- A defined or reserved opcode other than 0xC with `ARG != 0`. -/
  | nonzeroArg
  /-- OP in 0x6, 0x7, 0xE, 0xF with `ARG = 0`. -/
  | reservedOpcode
  deriving DecidableEq, Repr

/-- What a 36-bit word decodes to (R50). -/
inductive Decoded where
  | command (i : Instr)
  | illegal (why : Illegal)
  deriving DecidableEq, Repr

/-- `OP = CMD[35:32]` (R44). -/
def opField (w : CmdWord) : BitVec 4 := w.extractLsb' 32 4

/-- `ARG = CMD[31:0]` (R44). -/
def argField (w : CmdWord) : Word32 := w.extractLsb' 0 32

/-- `FAM = OP[3:2]` (R45). -/
def famField (op : BitVec 4) : BitVec 2 := op.extractLsb' 2 2

/-- `UNIT = OP[1]` (R45): Fahrenheit when set, in families 0 and 2. -/
def unitField (op : BitVec 4) : Bool := op.getLsbD 1

/-- `QF = OP[0]` (R45): the Q16 variant when set, in families 0 to 2. -/
def qfField (op : BitVec 4) : Bool := op.getLsbD 0

/-- `OP[1:0]`, the function number of family 3 (R45). -/
def fnField (op : BitVec 4) : BitVec 2 := op.extractLsb' 0 2

/-- The defined opcodes other than LDS (R46). -/
def decodeOpcode (op : BitVec 4) : Option Instr :=
  match op.toNat with
  | 0x0 => some .tc
  | 0x1 => some .tcq
  | 0x2 => some .tf
  | 0x3 => some .tfq
  | 0x4 => some .rh
  | 0x5 => some .rhq
  | 0x8 => some .dc
  | 0x9 => some .dcq
  | 0xA => some .df
  | 0xB => some .dfq
  | 0xD => some .lnh
  | _ => none

/-- `decode` of R50: LDS first, then the reserved argument, then the opcode map. -/
def decode (w : CmdWord) : Decoded :=
  if opField w = 0xC#4 then .command (.lds (argField w))
  else if argField w ≠ 0#32 then .illegal .nonzeroArg
  else match decodeOpcode (opField w) with
    | some i => .command i
    | none => .illegal .reservedOpcode

/-- The OP of each command (R46). -/
def Instr.opcode : Instr → BitVec 4
  | .tc => 0x0#4
  | .tcq => 0x1#4
  | .tf => 0x2#4
  | .tfq => 0x3#4
  | .rh => 0x4#4
  | .rhq => 0x5#4
  | .dc => 0x8#4
  | .dcq => 0x9#4
  | .df => 0xA#4
  | .dfq => 0xB#4
  | .lds _ => 0xC#4
  | .lnh => 0xD#4

/-- The ARG of each command: the frame for LDS, 0 for every other (R48). -/
def Instr.argument : Instr → Word32
  | .lds arg => arg
  | .tc => 0#32
  | .tcq => 0#32
  | .tf => 0#32
  | .tfq => 0#32
  | .rh => 0#32
  | .rhq => 0#32
  | .dc => 0#32
  | .dcq => 0#32
  | .df => 0#32
  | .dfq => 0#32
  | .lnh => 0#32

/-- The 36-bit word of a command, `{OP, ARG}` (R44). -/
def encode (i : Instr) : CmdWord := i.opcode ++ i.argument

/-- One row of the opcode map: a word `w` selects it when `w AND mask = pattern` (R46). -/
structure OpRow where
  op : BitVec 4
  mnemonic : String
  pattern : CmdWord
  mask : CmdWord
  deriving DecidableEq, Repr

/-- The twelve defined rows of the opcode map, as R46 prints them. The decoder does not read this list; it is the table a claim holds the decoder against. -/
def opcodeMap : List OpRow :=
  [⟨0x0#4, "TC", 0x000000000#36, 0xFFFFFFFFF#36⟩,
   ⟨0x1#4, "TCQ", 0x100000000#36, 0xFFFFFFFFF#36⟩,
   ⟨0x2#4, "TF", 0x200000000#36, 0xFFFFFFFFF#36⟩,
   ⟨0x3#4, "TFQ", 0x300000000#36, 0xFFFFFFFFF#36⟩,
   ⟨0x4#4, "RH", 0x400000000#36, 0xFFFFFFFFF#36⟩,
   ⟨0x5#4, "RHQ", 0x500000000#36, 0xFFFFFFFFF#36⟩,
   ⟨0x8#4, "DC", 0x800000000#36, 0xFFFFFFFFF#36⟩,
   ⟨0x9#4, "DCQ", 0x900000000#36, 0xFFFFFFFFF#36⟩,
   ⟨0xA#4, "DF", 0xA00000000#36, 0xFFFFFFFFF#36⟩,
   ⟨0xB#4, "DFQ", 0xB00000000#36, 0xFFFFFFFFF#36⟩,
   ⟨0xC#4, "LDS", 0xC00000000#36, 0xF00000000#36⟩,
   ⟨0xD#4, "LNH", 0xD00000000#36, 0xFFFFFFFFF#36⟩]

/-- The command word a table row's bits stand for: the low `nbits` bits of `w`, all higher bits 0.
A number of more than 36 bits is no command word (log entry 10). -/
def tableWord (nbits w : Nat) : Option CmdWord :=
  if w % 2 ^ nbits < 2 ^ 36 then some (BitVec.ofNat 36 (w % 2 ^ nbits)) else none

/-- What the decoder reads from a row of the opcode table. -/
def decodeTableWord (nbits w : Nat) : Option Instr :=
  match tableWord nbits w with
  | none => none
  | some c =>
    match decode c with
    | .command i => some i
    | .illegal _ => none

end Sys2Proof
end

