-- ==== Sys2Proof/Machine/Flags.lean ====
section
/-! DEFINITION. The fields of STATUS and every way a command or a fault changes them (spec/10_state.md R22, R23). -/

namespace Sys2Proof.Machine

/-- The two fault causes (spec/60_exceptions.md R100); code 3 is never produced (93 U3). -/
inductive Cause where
  | illegalCommand
  | noSample
  deriving DecidableEq, Repr

/-- The code a cause has in `STATUS.CAUSE` (R100). -/
def causeCode : Cause → BitVec 2
  | .illegalCommand => 1#2
  | .noSample => 2#2

namespace Flags

/-- `STATUS.SV = STATUS[0]`, sample valid. -/
def sv (st : StatusWord) : Bool := st.getLsbD 0
/-- `STATUS.RV = STATUS[1]`, result valid. -/
def rv (st : StatusWord) : Bool := st.getLsbD 1
/-- `STATUS.MISS = STATUS[2]`, lookup miss of the last completed conversion. -/
def miss (st : StatusWord) : Bool := st.getLsbD 2
/-- `STATUS.ERR = STATUS[3]`, a fault has been raised since reset. -/
def err (st : StatusWord) : Bool := st.getLsbD 3
/-- `STATUS.CAUSE = STATUS[5:4]`, the first fault's code. -/
def cause (st : StatusWord) : BitVec 2 := st.extractLsb' 4 2

/-- STATUS from its fields, `{CAUSE, ERR, MISS, RV, SV}`. -/
def pack (cause : BitVec 2) (err miss rv sv : Bool) : StatusWord :=
  cause ++ BitVec.ofBool err ++ BitVec.ofBool miss ++ BitVec.ofBool rv ++ BitVec.ofBool sv

/-- LDS completes: SV <- 1, the rest kept (R57). -/
def sampleLoaded (st : StatusWord) : StatusWord :=
  pack (cause st) (err st) (miss st) (rv st) true

/-- A conversion completes: RV <- 1 and MISS written, the rest kept (R23, R51). -/
def converted (st : StatusWord) (m : Bool) : StatusWord :=
  pack (cause st) (err st) m true (sv st)

/-- A fault is recorded: CAUSE and ERR written, the rest kept (R101). -/
def faulted (st : StatusWord) (c : Cause) : StatusWord :=
  pack (causeCode c) true (miss st) (rv st) (sv st)

end Flags
end Sys2Proof.Machine
end

