-- ==== Sys2Proof/Machine/LutRef.lean ====
section
/-! DEFINITION. The reference table `LUT_REF` (spec/10_state.md R18), the spec's own default instance of the parameter LUT; it is not the table of the original repository (91 N3). -/

namespace Sys2Proof.Machine

/-- `LUT_REF[0].value`: no rule reads it (R78, 91 N4). -/
def lutRefSentinel : List Int := [-2147483648]

/-- `LUT_REF[1..10].value`. -/
def lutRefValues1 : List Int :=
  [-301804, -256378, -229806, -210952, -196328,
   -184380, -174277, -165526, -157807, -150902]

/-- `LUT_REF[11..20].value`. -/
def lutRefValues2 : List Int :=
  [-144656, -138954, -133708, -128851, -124330,
   -120100, -116127, -112381, -108838, -105476]

/-- `LUT_REF[21..30].value`. -/
def lutRefValues3 : List Int :=
  [-102279, -99230, -96317, -93527, -90852,
   -88282, -85808, -83425, -81125, -78904]

/-- `LUT_REF[31..40].value`. -/
def lutRefValues4 : List Int :=
  [-76755, -74674, -72657, -70701, -68801,
   -66955, -65159, -63412, -61709, -60050]

/-- `LUT_REF[41..50].value`. -/
def lutRefValues5 : List Int :=
  [-58432, -56853, -55310, -53804, -52331,
   -50891, -49481, -48101, -46750, -45426]

/-- `LUT_REF[51..60].value`. -/
def lutRefValues6 : List Int :=
  [-44128, -42856, -41607, -40382, -39180,
   -37999, -36839, -35699, -34579, -33477]

/-- `LUT_REF[61..70].value`. -/
def lutRefValues7 : List Int :=
  [-32394, -31329, -30280, -29248, -28232,
   -27231, -26246, -25275, -24318, -23375]

/-- `LUT_REF[71..80].value`. -/
def lutRefValues8 : List Int :=
  [-22445, -21529, -20625, -19733, -18854,
   -17985, -17129, -16283, -15448, -14624]

/-- `LUT_REF[81..90].value`. -/
def lutRefValues9 : List Int :=
  [-13810, -13006, -12211, -11426, -10651,
   -9884, -9127, -8378, -7637, -6905]

/-- `LUT_REF[91..100].value`. -/
def lutRefValues10 : List Int :=
  [-6181, -5464, -4756, -4055, -3362,
   -2675, -1996, -1324, -659, 0]

/-- The 101 values of `LUT_REF`, `round(65536 * ln(i / 100))` for i in 1 to 100. -/
def lutRefValues : List Int :=
  lutRefSentinel ++ lutRefValues1 ++ lutRefValues2 ++ lutRefValues3 ++ lutRefValues4 ++ lutRefValues5
    ++ lutRefValues6 ++ lutRefValues7 ++ lutRefValues8 ++ lutRefValues9 ++ lutRefValues10

/-- `LUT_REF`: entry i has operand `655 * i` (R18). -/
def lutRef : List LutEntry :=
  lutRefValues.zipIdx.map fun p => ⟨BitVec.ofNat 16 (655 * p.2), BitVec.ofInt 32 p.1⟩

end Sys2Proof.Machine
end

