-- ==== Sys2Proof/Machine/State.lean ====
section
/-! DEFINITION. The state of DPE (spec/10_state.md R14), the reasons a step can stop, and the state after reset. -/

namespace Sys2Proof.Machine

/-- The host's two moves (spec/70_reset_and_hazards.md R120): assert reset, or present a 36-bit word on the command port. -/
inductive HostAction where
  | reset
  | issue (w : CmdWord)
  deriving DecidableEq, Repr

/-- The complete state. The first four fields are the spec's (R14); `port` and `draws` are the model's own (log entries 5 and 4). -/
structure State where
  /-- The table ROM LUT, entry 0 first (R15); no command writes it. -/
  lut : List LutEntry
  /-- SAMPLE (R20). -/
  sample : Word32
  /-- RESULT (R21). -/
  result : Word32
  /-- STATUS (R22). -/
  status : StatusWord
  /-- The host's actions not yet taken, oldest first (R26, R40). -/
  port : List HostAction
  /-- How many host resets have drawn free values for SAMPLE and RESULT (R112). -/
  draws : Nat
  deriving DecidableEq, Repr

/-- Reasons for a model fault: there are none. The spec's two faults, IllegalCommand and NoSample, are states the machine enters
(R101: ERR and CAUSE are written) and so are NEXT states of the model; nobody raises a constructor of this type (log entry 7). -/
inductive Fault where
  deriving DecidableEq, Repr

/-- Reasons for a refusal. -/
inductive Refusal where
  /-- Raised by `exec` for an instruction without a meaning; no arm does so now. Safe. -/
  | notModelled (mnemonic : String)
  /-- Raised by every step and every command of a machine whose table fails `LutWF`: such a table "is refused as a configuration error, never run" (R17, 93 U9).
  Safe: the model gives that machine no runs (log entry 2). -/
  | tableNotWellFormed
  deriving DecidableEq, Repr

/-- The machine right after reset (R29, R113): STATUS 0, the table as configured, no action pending.
SAMPLE and RESULT are unspecified by R29; 0 is a DESIGN CHOICE (log entry 3). The configured table is the spec's default instance LUT_REF (log entry 1). -/
def State.reset : State :=
  { lut := lutRef, sample := 0#32, result := 0#32, status := 0#6, port := [], draws := 0 }

end Sys2Proof.Machine
end

