-- ==== Sys2Proof/Machine/Operands.lean ====
section
/-! DEFINITION. Operands: the fields of SAMPLE (spec/10_state.md R20), the sample frame (spec/40_sample_load.md R56), the status bits a command reads (R30), the output ports (R55). -/

namespace Sys2Proof.Machine

/-- The 32-bit big-endian word of a frame in bus order, `{b0, b1, b2, b3}` (R35, R56). -/
def frameWord (b0 b1 b2 b3 : BitVec 8) : Word32 := b0 ++ b1 ++ b2 ++ b3

/-- `SAMPLE.TRAW = SAMPLE[31:16]`, unsigned. -/
def State.traw (s : State) : U16 := s.sample.extractLsb' 16 16

/-- `SAMPLE.HRAW = SAMPLE[15:0]`, unsigned. -/
def State.hraw (s : State) : U16 := s.sample.extractLsb' 0 16

/-- `STATUS.SV`. -/
def State.sv (s : State) : Bool := Flags.sv s.status
/-- `STATUS.RV`. -/
def State.rv (s : State) : Bool := Flags.rv s.status
/-- `STATUS.MISS`. -/
def State.miss (s : State) : Bool := Flags.miss s.status
/-- `STATUS.ERR`. -/
def State.err (s : State) : Bool := Flags.err s.status
/-- `STATUS.CAUSE`. -/
def State.cause (s : State) : BitVec 2 := Flags.cause s.status

/-- The output port STATUS[5:0] (R55). A read changes nothing (R38), so it is a function of the state and no action. -/
def State.statusPort (s : State) : StatusWord := s.status

/-- The output port RESULT[31:0] (R55), as the host may use it: no value while RV = 0 (93 U5, log entry 9). -/
def State.resultPort (s : State) : Option Word32 := if s.rv then some s.result else none

end Sys2Proof.Machine
end

