-- ==== Sys2Proof/WellFormed.lean ====
section
/-! DEFINITION. Well-formedness of the table ROM, `LutWF` (spec/10_state.md R17), clause by clause.
Every term of `Instr` is well formed by its type: every 32-bit argument of LDS is legal and no other command has an operand (R48).
The bounds of the assembler's pseudo-commands stand in Machine/Assembler.lean. -/

namespace Sys2Proof

/-- W1: the table has exactly 101 entries. -/
abbrev LutW1 (t : List LutEntry) : Prop := t.length = Config.lutLength

/-- W2: operands are strictly increasing (unsigned), entry by entry. -/
abbrev LutW2 (t : List LutEntry) : Prop := t.IsChain fun a b => a.operand < b.operand

/-- W3: `LUT[0].operand = 0`. -/
abbrev LutW3 (t : List LutEntry) : Prop := t.head?.map LutEntry.operand = some 0

/-- W4: values (signed) are non-decreasing over the selectable entries 1 to 100; entry 0 is not bound (91 N5). -/
abbrev LutW4 (t : List LutEntry) : Prop := t.tail.IsChain fun a b => a.value.toInt ≤ b.value.toInt

/-- W5: the values of the selectable entries 1 to 100 are at most 0. -/
abbrev LutW5 (t : List LutEntry) : Prop := ∀ e ∈ t.tail, e.value.toInt ≤ 0

/-- `LutWF(LUT)` (R17). -/
abbrev LutWF (t : List LutEntry) : Prop := LutW1 t ∧ LutW2 t ∧ LutW3 t ∧ LutW4 t ∧ LutW5 t

/-- `LutGap(LUT)`: the last operand is below 65535 (R17, the note below it); no rule depends on it. -/
abbrev LutGap (t : List LutEntry) : Prop := ∀ e ∈ t.getLast?, e.operand.toNat ≤ 65534

end Sys2Proof
end

