-- ==== Sys2Proof/Machine/Ops.lean ====
section
/-! DEFINITION. The shared operations: the ordered steps of a command (spec/30_encoding.md R51), fault entry (spec/60_exceptions.md R101), the only way back from a fault, which is reset (R109, R112), and the command port. -/

namespace Sys2Proof.Machine

/-- What a command or a step answers. -/
abbrev Out := Host.Outcome State Fault Refusal

/-- What a conversion computes from the sample and the table: the value for RESULT and the MISS flag (R24). -/
structure Conversion where
  value : Word32
  miss : Bool
  deriving DecidableEq, Repr

/-! ## Faults -/

/-- Fault entry, `raise <Fault>` (R101): the first fault sets CAUSE and ERR, and nothing else changes; the engine is then halted (R105). -/
def raise (c : Cause) (s : State) : State :=
  if s.err then s else { s with status := Flags.faulted s.status c }

/-! ## Admission: what stands before a command's own rule -/

/-- A table that fails LutWF is refused as a configuration error, never run (R17, 93 U9; log entry 2). -/
def whenConfigured (s : State) (k : Out) : Out :=
  if LutWF s.lut then k else .refused .tableNotWellFormed

/-- Step (1) of R51: a halted engine does not accept the command and nothing changes (R105, log entry 6). -/
def whenAccepted (s : State) (k : Out) : Out :=
  whenConfigured s (if s.err then .next s else k)

/-! ## The three things a presented word can do -/

/-- The registers a completing conversion writes, together (R38, R51 step 4). -/
def latch (c : Conversion) (s : State) : State :=
  { s with result := c.value, status := Flags.converted s.status c.miss }

/-- A conversion command whose value is `f TRAW HRAW LUT` (R24): steps (1), (3) and (4) of R51. -/
def convert (f : U16 → U16 → List LutEntry → Conversion) (s : State) : Out :=
  whenAccepted s <|
    if s.sv then .next (latch (f s.traw s.hraw s.lut) s) else .next (raise .noSample s)

/-- The sample load: SAMPLE <- ARG and SV <- 1, together (R57). -/
def loadSample (arg : Word32) (s : State) : Out :=
  whenAccepted s <| .next { s with sample := arg, status := Flags.sampleLoaded s.status }

/-- An illegal word raises IllegalCommand (R49, R102): steps (1) and (2) of R51. -/
def rejectWord (s : State) : Out :=
  whenAccepted s <| .next (raise .illegalCommand s)

/-! ## The host's side -/

/-- The state a host reset leaves (R112): STATUS <- 0, SAMPLE and RESULT unspecified (free values, log entry 4), the table untouched. -/
def clearedByReset (s : State) : State :=
  { s with
    sample := Config.freeSample s.draws
    result := Config.freeResult s.draws
    status := 0#6
    draws := s.draws + 1 }

/-- The host asserts reset (R112), also in the halted state; the only way back from a fault (R109). -/
def hostReset (s : State) : Out := whenConfigured s (.next (clearedByReset s))

/-- Between commands the engine is idle and holds its registers (R110; log entry 5). -/
def idle (s : State) : Out := whenConfigured s (.next s)

/-- The oldest action of the host and the state without it, or nothing when none is pending (R40, R117). -/
def takeAction (s : State) : Option (HostAction × State) :=
  match s.port with
  | [] => none
  | a :: rest => some (a, { s with port := rest })

/-- One action of the host, with `run` the meaning of a decoded command (R51 step 2 for the word, R112 for reset). -/
def perform (run : Instr → State → Out) (a : HostAction) (s : State) : Out :=
  match a with
  | .reset => hostReset s
  | .issue w =>
    match decode w with
    | .command i => run i s
    | .illegal _ => rejectWord s

/-- The host presents the word of an opcode-table row next, ahead of what is pending; a number that is no command word presents nothing. -/
def presentTableWord (s : State) (nbits w : Nat) : State :=
  match tableWord nbits w with
  | some c => { s with port := .issue c :: s.port }
  | none => s

end Sys2Proof.Machine
end

