-- ==== Sys2Proof/Machine/Lookup.lean ====
section
/-! DEFINITION. Commands through the table: what a lookup conversion does on a hit and on a miss, and LNH (spec/43_ln_lookup.md R81, spec/44_dew_point.md R91). -/

namespace Sys2Proof.Machine

/-- A conversion through the lookup: on a hit `f TRAW LUT[i].value` with MISS <- 0, on a miss RESULT <- 0 and MISS <- 1, and nothing of `f` is done (R91, R106). -/
def throughLookup (f : U16 → Word32 → Word32) (t h : U16) (lut : List LutEntry) : Conversion :=
  match lookup lut h with
  | .hit i => { value := f t (lutValue lut i), miss := false }
  | .miss => { value := 0#32, miss := true }

/-- LNH (R81): the stored value itself; TRAW is not read. -/
def execLnh (s : State) : Out := convert (throughLookup fun _ v => v) s

end Sys2Proof.Machine
end

