-- ==== Sys2Proof/Machine/DewPoint.lean ====
section
/-! DEFINITION. Dew-point commands: DCQ, DC, DFQ, DF (spec/44_dew_point.md). -/

namespace Sys2Proof.Machine

/-- The Q16 Celsius dew point of a raw temperature and a table value, `dewQ16(T, lnRh)` with T by R85 and the value read as s32. -/
def dewOf (t : U16) (v : Word32) : Int := dewQ16 (tempQ16 t) v.toInt

/-- DCQ (R92). -/
def execDcq (s : State) : Out := convert (throughLookup fun t v => toResult (dewOf t v)) s

/-- DC (R93). -/
def execDc (s : State) : Out := convert (throughLookup fun t v => toResult (whole (dewOf t v))) s

/-- DFQ (R94): the Fahrenheit conversion is applied to the Q16 Celsius dew point. -/
def execDfq (s : State) : Out := convert (throughLookup fun t v => toResult (fahrQ16 (dewOf t v))) s

/-- DF (R96). -/
def execDf (s : State) : Out := convert (throughLookup fun t v => toResult (whole (fahrQ16 (dewOf t v)))) s

end Sys2Proof.Machine
end

