-- ==== Sys2Proof/Machine/Humidity.lean ====
section
/-! DEFINITION. Relative-humidity converters: RHQ, RH (spec/42_humidity.md). Neither reads TRAW or the table; each writes MISS <- 0. -/

namespace Sys2Proof.Machine

/-- A conversion that reads HRAW only and never misses (R30). -/
def ofHumidity (f : U16 → Int) (_t h : U16) (_lut : List LutEntry) : Conversion :=
  { value := toResult (f h), miss := false }

/-- RHQ (R70). -/
def execRhq (s : State) : Out := convert (ofHumidity rhQ16) s

/-- RH (R71). -/
def execRh (s : State) : Out := convert (ofHumidity fun h => whole (rhQ16 h)) s

end Sys2Proof.Machine
end

