-- ==== Sys2Proof/Machine/SampleLoad.lean ====
section
/-! DEFINITION. Sample load: LDS (spec/40_sample_load.md). -/

namespace Sys2Proof.Machine

/-- LDS (R57). -/
def execLds (arg : Word32) (s : State) : Out := loadSample arg s

end Sys2Proof.Machine
end

