-- ==== Sys2Proof/Machine/Temperature.lean ====
section
/-! DEFINITION. Temperature converters: TCQ, TC, TFQ, TF (spec/41_temperature.md). None reads HRAW or the table; each writes MISS <- 0. -/

namespace Sys2Proof.Machine

/-- A conversion that reads TRAW only and never misses (R30). -/
def ofTemperature (f : U16 → Int) (t _h : U16) (_lut : List LutEntry) : Conversion :=
  { value := toResult (f t), miss := false }

/-- TCQ (R62). -/
def execTcq (s : State) : Out := convert (ofTemperature tempQ16) s

/-- TC (R63). -/
def execTc (s : State) : Out := convert (ofTemperature fun t => whole (tempQ16 t)) s

/-- TFQ (R64). -/
def execTfq (s : State) : Out := convert (ofTemperature fun t => fahrQ16 (tempQ16 t)) s

/-- TF (R65): the whole value of the Q16 Fahrenheit value. -/
def execTf (s : State) : Out := convert (ofTemperature fun t => whole (fahrQ16 (tempQ16 t))) s

end Sys2Proof.Machine
end

