-- ==== Sys2Proof/Machine/Dispatch.lean ====
section
/-! DEFINITION. One arm per command. -/

namespace Sys2Proof.Machine

def exec (i : Instr) (s : State) : Host.Outcome State Fault Refusal :=
  match i with
  | .tc => Sys2Proof.Machine.execTc s
  | .tcq => Sys2Proof.Machine.execTcq s
  | .tf => Sys2Proof.Machine.execTf s
  | .tfq => Sys2Proof.Machine.execTfq s
  | .rh => Sys2Proof.Machine.execRh s
  | .rhq => Sys2Proof.Machine.execRhq s
  | .dc => Sys2Proof.Machine.execDc s
  | .dcq => Sys2Proof.Machine.execDcq s
  | .df => Sys2Proof.Machine.execDf s
  | .dfq => Sys2Proof.Machine.execDfq s
  | .lds arg => Sys2Proof.Machine.execLds arg s
  | .lnh => Sys2Proof.Machine.execLnh s

end Sys2Proof.Machine
end

