-- ==== Sys2Proof/Machine/Step.lean ====
section
/-! DEFINITION. One step: the oldest action of the host, executed whole (spec/70_reset_and_hazards.md R117, R119, R120). -/

namespace Sys2Proof.Machine

/-- One step of the machine: idle when no action is pending, else that action. -/
def step (s : State) : Host.Outcome State Fault Refusal :=
  match takeAction s with
  | none => idle s
  | some (a, t) => perform exec a t

/-- `s` with the word of an opcode-table row presented on the command port, so that the next step runs it (log entry 5). -/
def State.withFetchWord (s : State) (nbits w : Nat) : State := presentTableWord s nbits w

end Sys2Proof.Machine
end

