-- ==== Sys2Proof/Machine/Assembler.lean ====
section
/-! DEFINITION. The assembler notation of the spec (spec/30_encoding.md R52, R53): lines, the two pseudo-commands, the text of a line and of a word. Text is a list of characters. Lexical details the spec leaves open: log entry 15. -/

namespace Sys2Proof.Machine

/-- One line: a command, or one of the two pseudo-commands (R53). -/
inductive AsmLine where
  | command (i : Instr)
  | lds2 (t h : Nat)
  | ldb (b0 b1 b2 b3 : Nat)
  deriving DecidableEq, Repr

/-- The bounds on the operands of a pseudo-command (R53). -/
def asmWf : AsmLine → Bool
  | .command _ => true
  | .lds2 t h => decide (t ≤ 65535 ∧ h ≤ 65535)
  | .ldb b0 b1 b2 b3 => decide (b0 ≤ 255 ∧ b1 ≤ 255 ∧ b2 ≤ 255 ∧ b3 ≤ 255)

/-- The one command a well-formed line stands for (R53). -/
def asmExpand (l : AsmLine) : Option Instr :=
  if asmWf l then
    match l with
    | .command i => some i
    | .lds2 t h => some (.lds (BitVec.ofNat 32 (t * 65536 + h)))
    | .ldb b0 b1 b2 b3 =>
      some (.lds (BitVec.ofNat 32 (b0 * 16777216 + b1 * 65536 + b2 * 256 + b3)))
  else none

/-- The 36-bit word of a well-formed line (R52). -/
def asmWord (l : AsmLine) : Option CmdWord := (asmExpand l).map encode

/-! ## Text -/

/-- The mnemonic in upper case (R52). -/
def asmMnemonic : Instr → List Char
  | .tc => ['T', 'C']
  | .tcq => ['T', 'C', 'Q']
  | .tf => ['T', 'F']
  | .tfq => ['T', 'F', 'Q']
  | .rh => ['R', 'H']
  | .rhq => ['R', 'H', 'Q']
  | .dc => ['D', 'C']
  | .dcq => ['D', 'C', 'Q']
  | .df => ['D', 'F']
  | .dfq => ['D', 'F', 'Q']
  | .lds _ => ['L', 'D', 'S']
  | .lnh => ['L', 'N', 'H']

/-- The hexadecimal digits, 0 first. -/
def hexDigits : List Char :=
  ['0', '1', '2', '3', '4', '5', '6', '7', '8', '9', 'A', 'B', 'C', 'D', 'E', 'F']

/-- `v` as `k` hexadecimal digits, most significant first. -/
def hexText : Nat → Nat → List Char
  | 0, _ => []
  | k + 1, v => hexText k (v / 16) ++ [hexDigits.getD (v % 16) '0']

/-- A word as nine hexadecimal digits, OP first (R52). -/
def wordText (w : CmdWord) : List Char := hexText 9 w.toNat

/-- The line of a command: its mnemonic, and for LDS one hexadecimal literal (R52). -/
def asmText : Instr → List Char
  | .lds arg => asmMnemonic (.lds arg) ++ [' ', '0', 'x'] ++ hexText 8 arg.toNat
  | .tc => asmMnemonic .tc
  | .tcq => asmMnemonic .tcq
  | .tf => asmMnemonic .tf
  | .tfq => asmMnemonic .tfq
  | .rh => asmMnemonic .rh
  | .rhq => asmMnemonic .rhq
  | .dc => asmMnemonic .dc
  | .dcq => asmMnemonic .dcq
  | .df => asmMnemonic .df
  | .dfq => asmMnemonic .dfq
  | .lnh => asmMnemonic .lnh

/-- The position of the first entry equal to `c`. -/
def digitIndex (c : Char) : List Char → Option Nat
  | [] => none
  | d :: ds => if c = d then some 0 else (digitIndex c ds).map (· + 1)

/-- The value of a digit in a base of at most 16; upper-case digits only. -/
def digitValue (base : Nat) (c : Char) : Option Nat :=
  (digitIndex c hexDigits).bind fun v => if v < base then some v else none

/-- A string of digits read from the left, `acc` the value so far. -/
def digitsValue (base : Nat) : Nat → List Char → Option Nat
  | acc, [] => some acc
  | acc, c :: cs => (digitValue base c).bind fun v => digitsValue base (acc * base + v) cs

/-- A hexadecimal literal: `0x` and at least one digit. -/
def hexLiteral : List Char → Option Nat
  | '0' :: 'x' :: d :: ds => digitsValue 16 0 (d :: ds)
  | _ => none

/-- An operand of a pseudo-command: a hexadecimal or a decimal literal. -/
def anyLiteral (cs : List Char) : Option Nat :=
  match hexLiteral cs with
  | some v => some v
  | none => if cs = [] then none else digitsValue 10 0 cs

/-- The token being read, if any, before the rest. -/
def flushToken (cur : List Char) (rest : List (List Char)) : List (List Char) :=
  if cur = [] then rest else cur.reverse :: rest

/-- Tokens of a line: spaces separate, a comma is a token of its own, `;` starts a comment to the end of the line (R52). -/
def asmTokens : List Char → List Char → List (List Char)
  | cur, [] => flushToken cur []
  | cur, c :: cs =>
    if c = ';' then flushToken cur []
    else if c = ' ' then flushToken cur (asmTokens [] cs)
    else if c = ',' then flushToken cur ([','] :: asmTokens [] cs)
    else asmTokens (c :: cur) cs

/-- The commands without an operand. -/
def plainCommands : List Instr := [.tc, .tcq, .tf, .tfq, .rh, .rhq, .dc, .dcq, .df, .dfq, .lnh]

/-- A line from its tokens. -/
def asmOfTokens : List (List Char) → Option AsmLine
  | [m] => (plainCommands.find? fun i => asmMnemonic i == m).map AsmLine.command
  | [m, a] =>
    if m = ['L', 'D', 'S'] then
      (hexLiteral a).bind fun v =>
        if v < 4294967296 then some (.command (.lds (BitVec.ofNat 32 v))) else none
    else none
  | [m, t, [','], h] =>
    if m = ['L', 'D', 'S', '2'] then
      (anyLiteral t).bind fun tv => (anyLiteral h).map fun hv => .lds2 tv hv
    else none
  | [m, b0, [','], b1, [','], b2, [','], b3] =>
    if m = ['L', 'D', 'B'] then
      (anyLiteral b0).bind fun v0 => (anyLiteral b1).bind fun v1 =>
        (anyLiteral b2).bind fun v2 => (anyLiteral b3).map fun v3 => .ldb v0 v1 v2 v3
    else none
  | _ => none

/-- A line of text read as one line of the notation; nothing for a line that is not one (a blank line or a comment among them). -/
def parseLine (text : List Char) : Option AsmLine := asmOfTokens (asmTokens [] text)

/-- The word a line of text assembles to. -/
def assemble (text : List Char) : Option CmdWord := (parseLine text).bind asmWord

end Sys2Proof.Machine
end

