-- ==== Sys2Proof/Machine/Datapath.lean ====
section
/-! DEFINITION. The same arithmetic in fixed-width words, as an implementation's datapath would do it: 32 bits for the converters (spec/41_temperature.md R67, spec/42_humidity.md R72)
and W_MAC = 64 bits two's complement for the dew-point chain (spec/00_scope.md R7). The meanings compute over the integers (R9); claims hold them against these. The 32-bit divisions are by the constants 65536 and 5 only. -/

namespace Sys2Proof.Machine

/-- `tempQ16` in 32-bit words. -/
def tempWord32 (t : U16) : Word32 := t.zeroExtend 32 * 165#32 - 2621440#32

/-- `whole` in 32-bit words, signed division truncating toward zero. -/
def wholeWord32 (q : Word32) : Word32 := q.sdiv 65536#32

/-- `fahrQ16` in 32-bit words. -/
def fahrWord32 (c : Word32) : Word32 := (c * 9#32).sdiv 5#32 + 2097152#32

/-- `rhQ16` in 32-bit words. -/
def rhWord32 (h : U16) : Word32 := h.zeroExtend 32 * 100#32

/-- `tempQ16` widened to the 64-bit node T (R85). -/
def tempWord64 (t : U16) : Word64 := (tempWord32 t).signExtend 64

/-- `a sdiv b` at 64 bits, truncating toward zero (R10). Division by 0 has no meaning and is not defined as 0 (93 U10): the low 64 bits of the integer chain's free value, never reached under LutWF (R97; log entry 8). -/
def sdivWord64 (a b : Word64) : Word64 :=
  if b = 0#64 then BitVec.ofInt 64 (Config.sdivByZero a.toInt) else a.sdiv b

/-- The chain in 64-bit words, every product, sum and division at 64 bits (R86 to R90). A divisor of 0, possible only for a positive `lnRh`, gives a free value (log entry 8). -/
def dewWord64 (t : U16) (lnRh : Word32) : Word64 :=
  let T := tempWord64 t
  let P := 1155072#64 * T
  let S := 15927869#64 + T
  let M := sdivWord64 P S
  let G := lnRh.signExtend 64 + M
  let NUM := 15927869#64 * G
  let DEN := 1155072#64 - G
  sdivWord64 NUM DEN

end Sys2Proof.Machine
end

