-- ==== Sys2Proof/Safety.lean ====
section
/-! DEFINITION. What claims are stated in: the invariants of STATUS (spec/10_state.md R22), when a command is accepted or executes normally (spec/30_encoding.md R51), and what a run is (spec/70_reset_and_hazards.md R120). -/

namespace Sys2Proof.Machine

/-- The invariants of STATUS (R22): ERR = 0 iff CAUSE = 0; RV = 1 implies SV = 1; MISS = 1 implies RV = 1; and CAUSE = 3 is never produced (93 U3). -/
def StatusInv (s : State) : Prop :=
  (s.err = false ↔ s.cause = 0#2) ∧ (s.rv = true → s.sv = true) ∧ (s.miss = true → s.rv = true) ∧ s.cause ≠ 3#2

/-- The machine invariant: a well-formed table and a legal STATUS. -/
def MachineInv (s : State) : Prop := LutWF s.lut ∧ StatusInv s

/-- The engine accepts a command: its table is configured and it is not halted (R51 step 1). -/
def Accepting (s : State) : Prop := LutWF s.lut ∧ s.err = false

/-- A conversion executes normally: the engine accepts commands and holds a sample (R51 steps 1 and 3). -/
def Ready (s : State) : Prop := Accepting s ∧ s.sv = true

/-- `t` has the registers of `s`: SAMPLE, RESULT, STATUS and the table. -/
def SameRegisters (s t : State) : Prop :=
  t.lut = s.lut ∧ t.sample = s.sample ∧ t.result = s.result ∧ t.status = s.status

/-- A run of the host (R120): the actions in order, ending when the list is exhausted or when a fault halts the engine, whichever is first. -/
def hostRun : List HostAction → State → Out
  | [], s => .next s
  | a :: rest, s =>
    if s.err then .next s
    else match step { s with port := [a] } with
      | .next t => hostRun rest t
      | .fault r => .fault r
      | .refused r => .refused r

/-- A run that ended in a fault is not a successful run (R120). -/
def Successful (o : Out) : Prop := ∃ t, o = .next t ∧ t.err = false

end Sys2Proof.Machine
end

