-- ==== Sys2Proof/Certificates/Slice0/Obligations.lean ====
section
/-! DEFINITION. The statements for the provers. Formulas the spec prints are written out here again with its own numerals and `Int.tdiv` (truncation toward zero), so that a statement does not repeat the meaning's own definitions.
Where a statement speaks of a pending action, the port as a list in the state is the model's form of the command port (log entry 5). -/

namespace Sys2Proof.Claims

open Sys2Proof.Machine

/-! ## The spec's formulas, written out -/

/-- `t * 165 - 2621440` (R59). -/
def celsius (t : Nat) : Int := (t : Int) * 165 - 2621440

/-- The whole-unit value, `q sdiv 65536` (R60). -/
def units (q : Int) : Int := q.tdiv 65536

/-- `((c * 9) sdiv 5) + 2097152` (R61). -/
def fahrenheit (c : Int) : Int := (c * 9).tdiv 5 + 2097152

/-- The dew-point formula (R84 to R90), used only where both divisors are positive: a divisor of 0 has no meaning in the spec (log entry 8). -/
def dewPoint (T ln : Int) : Int :=
  (15927869 * (ln + (1155072 * T).tdiv (15927869 + T))).tdiv
    (1155072 - ln - (1155072 * T).tdiv (15927869 + T))

/-- `i` is a bucket of `h`: an index in 1 to 100 with `LUT[i-1].operand < h <= LUT[i].operand` (R75). -/
def InBucket (lut : List LutEntry) (h : U16) (i : Nat) : Prop :=
  1 ≤ i ∧ i ≤ 100 ∧ ∃ lo hi, lut[i - 1]? = some lo ∧ lut[i]? = some hi ∧ lo.operand < h ∧ h ≤ hi.operand

/-- The raw humidity is 0 or above the last operand (R77). -/
def Misses (lut : List LutEntry) (h : U16) : Prop :=
  h = 0 ∨ ∃ e, lut[100]? = some e ∧ e.operand < h

/-! ## Shapes of outcomes, with their frames -/

/-- The conversion `i` completes with `v` in RESULT and `m` in MISS; RV is set; SAMPLE, SV, ERR, CAUSE, the table and the pending actions are unchanged. -/
def Completes (i : Instr) (s : State) (v : Int) (m : Bool) : Prop :=
  ∃ t, exec i s = .next t ∧ t.result.toInt = v ∧ t.rv = true ∧ t.miss = m ∧ t.sv = s.sv ∧ t.err = s.err ∧
    t.cause = s.cause ∧ t.sample = s.sample ∧ t.lut = s.lut ∧ t.port = s.port ∧ t.draws = s.draws

/-- The outcome is a fault entry from `s` with the given code: ERR and CAUSE are written, everything else is unchanged (R101). -/
def Raises (o : Out) (s : State) (code : BitVec 2) : Prop :=
  ∃ t, o = .next t ∧ t.err = true ∧ t.cause = code ∧ t.sv = s.sv ∧ t.rv = s.rv ∧ t.miss = s.miss ∧
    t.sample = s.sample ∧ t.result = s.result ∧ t.lut = s.lut ∧ t.port = s.port ∧ t.draws = s.draws

/-- The encoding and the two faults of a conversion command whose OP is `op`: its word; NoSample while SV = 0; IllegalCommand for every nonzero ARG. -/
def CommandWord (i : Instr) (op : BitVec 4) (w : CmdWord) : Prop :=
  encode i = w ∧ opField w = op ∧ argField w = 0#32 ∧
  (∀ s, Accepting s → s.sv = false → Raises (exec i s) s 2#2) ∧
  (∀ s rest w', Accepting s → opField w' = op → argField w' ≠ 0#32 → s.port = .issue w' :: rest →
    Raises (step s) { s with port := rest } 1#2)

/-- A dew-point or logarithm command: on a hit `f TRAW value`, on a miss 0 with MISS = 1. -/
def LookupCommand (i : Instr) (f : Nat → Int → Int) : Prop :=
  (∀ s k lo hi, Ready s → 1 ≤ k → k ≤ 100 → s.lut[k - 1]? = some lo → s.lut[k]? = some hi →
    lo.operand < s.hraw → s.hraw ≤ hi.operand →
    Completes i s (f s.traw.toNat hi.value.toInt) false) ∧
  (∀ s, Ready s → Misses s.lut s.hraw → Completes i s 0 true)

/-! ## Groups of commands -/

/-- The temperature family (R59 to R68). -/
def temperatureCommands : List Instr := [.tc, .tcq, .tf, .tfq]
/-- The humidity family (R69 to R73). -/
def humidityCommands : List Instr := [.rh, .rhq]
/-- The dew-point family (R84 to R99). -/
def dewCommands : List Instr := [.dc, .dcq, .df, .dfq]
/-- The commands that look the table up (R23). -/
def lookupCommands : List Instr := [.lnh, .dc, .dcq, .df, .dfq]
/-- The eleven conversion commands, in the order R103 names them. -/
def conversionCommands : List Instr := [.tc, .tcq, .tf, .tfq, .rh, .rhq, .lnh, .dc, .dcq, .df, .dfq]

/-- FAM of each command (R45). -/
def familyCode : Instr → BitVec 2
  | .tc => 0#2
  | .tcq => 0#2
  | .tf => 0#2
  | .tfq => 0#2
  | .rh => 1#2
  | .rhq => 1#2
  | .dc => 2#2
  | .dcq => 2#2
  | .df => 2#2
  | .dfq => 2#2
  | .lds _ => 3#2
  | .lnh => 3#2

/-- The commands in Fahrenheit. -/
def fahrenheitCommands : List Instr := [.tf, .tfq, .df, .dfq]
/-- The Q16 variants. -/
def q16Commands : List Instr := [.tcq, .tfq, .rhq, .dcq, .dfq]

end Sys2Proof.Claims

open Sys2Proof Sys2Proof.Machine Sys2Proof.Claims

/-! ## Reset and invariants -/

/-- The engine after reset: STATUS is 0, no action is pending, it accepts a command, and the table is the configured one.
That the configured table of State.reset is LUT_REF is the model's choice (log entry 1); nothing is said of SAMPLE and RESULT, whose reset values are the model's choice too (log entry 3).
That the RESULT port shows no value there is the model's choice of the two readings the spec offers (log entry 9); that the port of actions is empty is the model's form of an idle engine (log entry 5). -/
def Obligations.ResetLeavesStatusZero : Prop :=
  State.reset.status = 0#6 ∧ State.reset.lut = lutRef ∧ State.reset.port = [] ∧ Accepting State.reset ∧
    State.reset.sv = false ∧ State.reset.resultPort = none

/-- The invariant (well-formed table, legal STATUS) holds at reset; the table there is the model's choice (log entry 1). -/
def Obligations.InvHoldsAtReset : Prop := MachineInv State.reset

/-- Every step keeps the invariant: a well-formed table, ERR = 0 iff CAUSE = 0, RV implies SV, MISS implies RV, CAUSE is never 3. -/
def Obligations.StepKeepsInv : Prop := ∀ s t, MachineInv s → step s = .next t → MachineInv t

/-- No number of steps, with any actions of the host, changes the table. -/
def Obligations.RunsKeepTheTable : Prop :=
  ∀ (n : Nat) (s t : State), Host.Core.run core n s = .next t → t.lut = s.lut

/-! ## Encoding -/

/-- R50: the decoder's cases in their order, and decode of encode is the command, for every command and every LDS argument. -/
def Obligations.DecodeEncodeAgree : Prop :=
  (∀ w, opField w = 0xC#4 → decode w = .command (.lds (argField w))) ∧
  (∀ w, opField w ≠ 0xC#4 → argField w ≠ 0#32 → ∃ y, decode w = .illegal y) ∧
  (∀ w, argField w = 0#32 → ∀ i ∈ conversionCommands, opField w = i.opcode → decode w = .command i) ∧
  (∀ w, opField w ≠ 0xC#4 → argField w = 0#32 → (∀ i ∈ conversionCommands, opField w ≠ i.opcode) →
    ∃ y, decode w = .illegal y) ∧
  (∀ i, decode (encode i) = .command i) ∧
  (∀ w i, decode w = .command i → encode i = w)

/-- R46: a word matches a row's mask and pattern iff it decodes to that row's command; no word matches two rows; the four reserved opcodes have no row. -/
def Obligations.OpcodeMapSelectsRows : Prop :=
  opcodeMap.length = 12 ∧
  (∀ w, ∀ r ∈ opcodeMap, (w &&& r.mask = r.pattern ↔ ∃ i, decode w = .command i ∧ i.opcode = r.op)) ∧
  (∀ w, ∀ r ∈ opcodeMap, ∀ r' ∈ opcodeMap, w &&& r.mask = r.pattern → w &&& r'.mask = r'.pattern → r = r') ∧
  (∀ i, ∃ r ∈ opcodeMap, r.op = i.opcode ∧ r.mnemonic.toList = asmMnemonic i) ∧
  (∀ r ∈ opcodeMap, r.op ≠ 0x6#4 ∧ r.op ≠ 0x7#4 ∧ r.op ≠ 0xE#4 ∧ r.op ≠ 0xF#4)

/-- R45: the sub-fields of OP. -/
def Obligations.OpcodeSubfields : Prop :=
  (∀ i, opField (encode i) = i.opcode ∧ famField (opField (encode i)) = familyCode i) ∧
  (∀ i, familyCode i ≠ 3#2 → (unitField i.opcode = true ↔ i ∈ fahrenheitCommands)) ∧
  (∀ i, familyCode i ≠ 3#2 → (qfField i.opcode = true ↔ i ∈ q16Commands)) ∧
  (∀ w, famField (opField w) = 1#2 → unitField (opField w) = true → ∃ y, decode w = .illegal y) ∧
  (∀ w, famField (opField w) = 3#2 → fnField (opField w) = 0#2 → decode w = .command (.lds (argField w))) ∧
  (∀ w, famField (opField w) = 3#2 → fnField (opField w) = 1#2 → argField w = 0#32 → decode w = .command .lnh) ∧
  (∀ w, famField (opField w) = 3#2 → (fnField (opField w) = 2#2 ∨ fnField (opField w) = 3#2) →
    ∃ y, decode w = .illegal y)

/-- The number of legal words: 2^32 are LDS and 11 are the other commands. -/
def Obligations.LegalWordCount : Prop :=
  Nat.card {w : CmdWord // ∃ a, decode w = .command (.lds a)} = 2 ^ 32 ∧
  Nat.card {w : CmdWord // ∃ i, decode w = .command i} = 2 ^ 32 + 11

/-- Words written out from the spec's encodings (spec/95_test_vectors.md section 2.1). -/
def Obligations.PrintedWordsDecode : Prop :=
  decode 0x000000000#36 = .command .tc ∧ decode 0x300000000#36 = .command .tfq ∧
  decode 0x500000000#36 = .command .rhq ∧ decode 0xA00000000#36 = .command .df ∧
  decode 0xD00000000#36 = .command .lnh ∧ decode 0xC3FFF8000#36 = .command (.lds 0x3FFF8000#32) ∧
  (∀ w ∈ [0x600000000#36, 0x700000000#36, 0xE00000000#36, 0xF00000000#36, 0x000000001#36, 0xA00000001#36,
      0xD80000000#36, 0x6FFFFFFFF#36], ∃ y, decode w = .illegal y)

/-! ## The step -/

/-- A step at a pending word that decodes to `i` is `exec i` with that action taken off the port. -/
def Obligations.StepRunsDecodedCommand : Prop :=
  ∀ s w rest i, s.port = .issue w :: rest → decode w = .command i → step s = exec i { s with port := rest }

/-- R51: the four ordered steps of every command; R105: what step (1) refers to, that a halted engine changes no register until a reset.
The halted clauses say what no step may do; that the model's halted engine goes on answering steps is its choice (log entry 6) and stands in HaltLastsUntilReset. -/
def Obligations.CommandStepsInOrder : Prop :=
  (∀ s t, s.err = true → (∀ rest, s.port ≠ .reset :: rest) → step s = .next t →
    SameRegisters s t ∧ t.err = true ∧ t.cause = s.cause ∧ (s.rv = true → t.resultPort = s.resultPort) ∧
      t.statusPort = s.statusPort) ∧
  (∀ s t, step s = .next t → ((s.err = true ∧ t.err = false) ∨ (s.cause ≠ 0#2 ∧ t.cause = 0#2)) →
    ∃ rest, s.port = .reset :: rest) ∧
  ∀ s w rest, LutWF s.lut → s.port = .issue w :: rest →
    (s.err = false → (∃ y, decode w = .illegal y) → Raises (step s) { s with port := rest } 1#2) ∧
    (s.err = false → ∀ i, decode w = .command i → i.isConversion = true → s.sv = false →
      Raises (step s) { s with port := rest } 2#2) ∧
    (s.err = false → ∀ i, decode w = .command i → i.isConversion = true → s.sv = true →
      ∃ t, step s = .next t ∧ exec i { s with port := rest } = .next t ∧ t.rv = true ∧ t.sv = true ∧ t.err = false ∧
        t.cause = s.cause ∧ t.sample = s.sample ∧ t.lut = s.lut ∧ t.port = rest ∧ t.draws = s.draws) ∧
    (s.err = false → ∀ arg, decode w = .command (.lds arg) →
      ∃ t, step s = .next t ∧ t.sample = arg ∧ t.sv = true ∧ t.rv = s.rv ∧ t.miss = s.miss ∧ t.err = false ∧
        t.cause = s.cause ∧ t.result = s.result ∧ t.lut = s.lut ∧ t.port = rest ∧ t.draws = s.draws)

/-- With no action pending the engine is idle and holds its state; that a step with nothing pending is the identity is the model's form of it (log entry 5). -/
def Obligations.IdleHoldsRegisters : Prop :=
  ∀ s, LutWF s.lut → s.port = [] → step s = .next s

/-- A table that fails LutWF is refused: no step and no command of such a machine runs. That the refusal comes at every step is the model's form of it (log entry 2). -/
def Obligations.MalformedTableRefused : Prop :=
  ∀ s, ¬ LutWF s.lut → step s = .refused .tableNotWellFormed ∧ ∀ i, exec i s = .refused .tableNotWellFormed

/-! ## Faults, halt, reset -/

/-- R102: every illegal word raises IllegalCommand, and LDS never raises it. -/
def Obligations.IllegalWordsRaise : Prop :=
  (∀ s w rest, Accepting s → s.port = .issue w :: rest →
    (opField w = 0x6#4 ∨ opField w = 0x7#4 ∨ opField w = 0xE#4 ∨ opField w = 0xF#4 ∨
      (opField w ≠ 0xC#4 ∧ argField w ≠ 0#32)) →
    Raises (step s) { s with port := rest } 1#2) ∧
  (∀ s w rest, Accepting s → s.port = .issue w :: rest → opField w = 0xC#4 →
    ∃ t, step s = .next t ∧ t.err = false ∧ t.cause = s.cause)

/-- R103: each of the eleven conversion commands raises NoSample before the first LDS, and the unspecified SAMPLE is not converted: RESULT, RV and MISS are as before. -/
def Obligations.ConversionWithoutSampleRaises : Prop :=
  ∀ s, Accepting s → s.sv = false → ∀ i ∈ conversionCommands, Raises (exec i s) s 2#2

/-- R104: IllegalCommand before NoSample, with the rule's two words. -/
def Obligations.IllegalBeforeNoSample : Prop :=
  (∀ s w rest, Accepting s → s.sv = false → s.port = .issue w :: rest →
    (∀ y, decode w = .illegal y → Raises (step s) { s with port := rest } 1#2) ∧
    (∀ i ∈ conversionCommands, decode w = .command i → Raises (step s) { s with port := rest } 2#2)) ∧
  Raises (step { State.reset with port := [.issue 0x000000001#36] }) State.reset 1#2 ∧
  Raises (step { State.reset with port := [.issue 0x000000000#36] }) State.reset 2#2

/-- R101: fault entry writes CAUSE and ERR when ERR = 0 and nothing otherwise. -/
def Obligations.FaultEntryWritesErrAndCause : Prop :=
  ∀ c s, (s.err = false → Raises (.next (raise c s)) s (causeCode c)) ∧ (s.err = true → raise c s = s)

/-- While ERR = 1 no register changes, over any number of steps in which no reset is pending; and only reset clears ERR and CAUSE.
The model's choices in it: that a step with a word pending in the halted state answers a next state, the word taken off the port and dropped, and that a command reaching it leaves the state as it is (log entry 6, where the spec speaks of no further step); that a step with nothing pending is idle (log entry 5); that the RESULT port shows no value while RV = 0 (log entry 9). What the spec itself says of the halted state is in CommandStepsInOrder. -/
def Obligations.HaltLastsUntilReset : Prop :=
  (∀ (n : Nat) (s : State), LutWF s.lut → s.err = true → (∀ a ∈ s.port, a ≠ .reset) →
    ∃ t : State, Host.Core.run core n s = .next t ∧ SameRegisters s t ∧ t.resultPort = s.resultPort ∧
      t.statusPort = s.statusPort) ∧
  (∀ s t, step s = .next t → s.err = true → (∀ rest, s.port ≠ .reset :: rest) → t.err = true ∧ t.cause = s.cause) ∧
  (∀ s w rest, LutWF s.lut → s.err = true → s.port = .issue w :: rest → step s = .next { s with port := rest }) ∧
  (∀ s i, LutWF s.lut → s.err = true → exec i s = .next s)

/-- R112: reset, in every state, clears STATUS and leaves the table; afterwards the engine accepts a command; no other action clears ERR, CAUSE, SV or RV. -/
def Obligations.HostResetClearsStatus : Prop :=
  (∀ s rest, LutWF s.lut → s.port = .reset :: rest →
    ∃ t, step s = .next t ∧ t.status = 0#6 ∧ t.lut = s.lut ∧ t.port = rest ∧ Accepting t) ∧
  (∀ s t, step s = .next t → (∀ rest, s.port ≠ .reset :: rest) →
    (s.err = true → t.err = true) ∧ (s.cause ≠ 0#2 → t.cause ≠ 0#2) ∧ (s.sv = true → t.sv = true) ∧
      (s.rv = true → t.rv = true)) ∧
  State.reset.status = 0#6

/-! ## Sample load -/

/-- R57: LDS, its word, its effect with the frame, and that a halted engine does not execute it (whatever it answers there is the state it had; that it answers is log entry 6, in HaltLastsUntilReset). -/
def Obligations.LdsLoadsSample : Prop :=
  (∀ arg : Word32, encode (.lds arg) = 0xC00000000#36 + arg.zeroExtend 36) ∧
  (∀ s arg, Accepting s →
    ∃ t, exec (.lds arg) s = .next t ∧ t.sample = arg ∧ t.traw.toNat = arg.toNat / 65536 ∧
      t.hraw.toNat = arg.toNat % 65536 ∧ t.sv = true ∧ t.rv = s.rv ∧ t.miss = s.miss ∧ t.err = s.err ∧
      t.cause = s.cause ∧ t.result = s.result ∧ t.lut = s.lut ∧ t.port = s.port ∧ t.draws = s.draws) ∧
  (∀ s t arg, s.err = true → exec (.lds arg) s = .next t → t = s) ∧
  (∀ s, Accepting s → ∀ p ∈ [(0x00000000#32, 0, 0), (0xFFFFFFFF#32, 65535, 65535), (0x3FFF8000#32, 16383, 32768)],
    ∃ t, exec (.lds p.1) s = .next t ∧ t.traw.toNat = p.2.1 ∧ t.hraw.toNat = p.2.2 ∧ t.sv = true) ∧
  decode 0xC3FFF8000#36 = .command (.lds 0x3FFF8000#32)

/-- R35, R56: the frame is big-endian, temperature first, and every pair of fields is loaded as it is. -/
def Obligations.SampleFrameIsBigEndian : Prop :=
  (∀ s b0 b1 b2 b3, Accepting s →
    ∃ t, exec (.lds (frameWord b0 b1 b2 b3)) s = .next t ∧ t.traw.toNat = b0.toNat * 256 + b1.toNat ∧
      t.hraw.toNat = b2.toNat * 256 + b3.toNat) ∧
  (∀ s (a h : U16), Accepting s → ∃ t, exec (.lds (a ++ h)) s = .next t ∧ t.traw = a ∧ t.hraw = h) ∧
  frameWord 0x3F#8 0xFF#8 0x80#8 0x00#8 = 0x3FFF8000#32

/-- R58: after LDS the RESULT port, RV and MISS still describe the previous conversion, and the engine converts nothing on its own. -/
def Obligations.LdsKeepsPreviousResult : Prop :=
  ∀ s arg, Accepting s →
    ∃ t, exec (.lds arg) s = .next t ∧ t.result = s.result ∧ (s.rv = true → t.resultPort = s.resultPort) ∧ t.rv = s.rv ∧
      t.miss = s.miss ∧ (∀ u, t.port = [] → step t = .next u → SameRegisters t u)

/-- A conversion right after LDS sees the new sample: its RESULT and MISS are those of any ready engine with that sample and table. -/
def Obligations.ConversionAfterLoadSeesNewSample : Prop :=
  ∀ s s' arg, Accepting s → Ready s' → s'.sample = arg → s'.lut = s.lut → ∀ i ∈ conversionCommands,
    ∃ t u u', exec (.lds arg) s = .next t ∧ exec i t = .next u ∧ exec i s' = .next u' ∧
      u.result = u'.result ∧ u.miss = u'.miss ∧ u.rv = true

/-! ## Temperature -/

/-- R62. -/
def Obligations.TcqComputesCelsiusQ16 : Prop :=
  CommandWord .tcq 0x1#4 0x100000000#36 ∧
  (∀ s, Ready s → Completes .tcq s (celsius s.traw.toNat) false) ∧
  (∀ p ∈ [(0, -2621440), (65535, 8191835), (15887, -85), (15888, 80), (16383, 81755)], celsius p.1 = p.2) ∧
  BitVec.ofInt 32 (celsius 0) = 0xFFD80000#32 ∧ BitVec.ofInt 32 (celsius 65535) = 0x007CFF5B#32 ∧
  (∀ t, celsius t ≠ 0)

/-- R63. -/
def Obligations.TcComputesCelsiusWhole : Prop :=
  CommandWord .tc 0x0#4 0x000000000#36 ∧
  (∀ s, Ready s → Completes .tc s (units (celsius s.traw.toNat)) false) ∧
  (∀ p ∈ [(0, -40), (1, -39), (65535, 124), (15490, -1), (16285, 1), (100, -39), (16383, 1)],
    units (celsius p.1) = p.2) ∧
  (∀ t, t ≤ 65535 → (units (celsius t) = -40 ↔ t = 0)) ∧
  (∀ t, t ≤ 65535 → units (celsius t) ≠ 125) ∧
  (∀ t, 15491 ≤ t → t ≤ 16284 → units (celsius t) = 0)

/-- R64, with its remark that 16842455 is the largest value of any arithmetic command and that the division is exact. -/
def Obligations.TfqComputesFahrenheitQ16 : Prop :=
  CommandWord .tfq 0x3#4 0x300000000#36 ∧
  (∀ s, Ready s → Completes .tfq s (fahrenheit (celsius s.traw.toNat)) false) ∧
  (∀ p ∈ [(0, -2621440), (65535, 16842455), (1, -2621143), (15887, 2096999), (15886, 2096702), (16383, 2244311)],
    fahrenheit (celsius p.1) = p.2) ∧
  BitVec.ofInt 32 (fahrenheit (celsius 65535)) = 0x0100FED7#32 ∧
  (∀ s, Ready s → ∀ i ∈ conversionCommands, i ≠ .lnh →
    ∃ t, exec i s = .next t ∧ t.result.toInt ≤ 16842455) ∧
  (∀ t, (5 : Int) ∣ celsius t ∧ (celsius t * 9).tdiv 5 * 5 = celsius t * 9)

/-- R65. -/
def Obligations.TfComputesFahrenheitWhole : Prop :=
  CommandWord .tf 0x2#4 0x200000000#36 ∧
  (∀ s, Ready s → Completes .tf s (units (fahrenheit (celsius s.traw.toNat))) false) ∧
  (∀ p ∈ [(0, -40), (65535, 256), (15887, 31), (15888, 32), (397, -38), (16383, 34)],
    units (fahrenheit (celsius p.1)) = p.2) ∧
  units (celsius 397) = -39

/-- R66: the four commands are total and monotonic; TCQ and TFQ strictly. -/
def Obligations.TemperatureCommandsMonotone : Prop :=
  (∀ s s', Ready s → Ready s' → s.traw ≤ s'.traw → ∀ i ∈ temperatureCommands,
    ∃ t t', exec i s = .next t ∧ exec i s' = .next t' ∧ t.result.toInt ≤ t'.result.toInt) ∧
  (∀ s s', Ready s → Ready s' → s.traw < s'.traw → ∀ i ∈ [Instr.tcq, Instr.tfq],
    ∃ t t', exec i s = .next t ∧ exec i s' = .next t' ∧ t.result.toInt < t'.result.toInt)

/-- R67: the ranges of the temperature family, and that a 32-bit datapath gives the same values. -/
def Obligations.TemperatureRanges : Prop :=
  ∀ t : U16,
    (0 ≤ (t.toNat : Int) * 165 ∧ (t.toNat : Int) * 165 ≤ 10813275) ∧
    (-2621440 ≤ tempQ16 t ∧ tempQ16 t ≤ 8191835) ∧
    (-40 ≤ whole (tempQ16 t) ∧ whole (tempQ16 t) ≤ 124) ∧
    (-23592960 ≤ tempQ16 t * 9 ∧ tempQ16 t * 9 ≤ 73726515) ∧
    (-4718592 ≤ sdiv (tempQ16 t * 9) 5 ∧ sdiv (tempQ16 t * 9) 5 ≤ 14745303) ∧
    (-2621440 ≤ fahrQ16 (tempQ16 t) ∧ fahrQ16 (tempQ16 t) ≤ 16842455) ∧
    (-40 ≤ whole (fahrQ16 (tempQ16 t)) ∧ whole (fahrQ16 (tempQ16 t)) ≤ 256) ∧
    (tempWord32 t).toInt = tempQ16 t ∧
    (wholeWord32 (tempWord32 t)).toInt = whole (tempQ16 t) ∧
    (fahrWord32 (tempWord32 t)).toInt = fahrQ16 (tempQ16 t) ∧
    (wholeWord32 (fahrWord32 (tempWord32 t))).toInt = whole (fahrQ16 (tempQ16 t))

/-- R68: TF is within less than one degree of the exact value, and the whole-degree reading is off by -3 to 2, every value taken. -/
def Obligations.FahrenheitAgreesWithExactCelsius : Prop :=
  (∀ t : U16, |whole (fahrQ16 (tempQ16 t)) * (5 * 65536) - (tempQ16 t * 9 + 32 * (5 * 65536))| < 5 * 65536) ∧
  (∀ t : U16, -3 ≤ whole (fahrQ16 (tempQ16 t)) - (sdiv (whole (tempQ16 t) * 9) 5 + 32) ∧
    whole (fahrQ16 (tempQ16 t)) - (sdiv (whole (tempQ16 t) * 9) 5 + 32) ≤ 2) ∧
  (∀ d : Int, -3 ≤ d → d ≤ 2 →
    ∃ t : U16, whole (fahrQ16 (tempQ16 t)) - (sdiv (whole (tempQ16 t) * 9) 5 + 32) = d) ∧
  (whole (tempQ16 9136#16) = -16 ∧ whole (fahrQ16 (tempQ16 9136#16)) = 1 ∧ sdiv (-16 * 9) 5 + 32 = 4) ∧
  (whole (tempQ16 16550#16) = 1 ∧ whole (fahrQ16 (tempQ16 16550#16)) = 35 ∧ sdiv (1 * 9) 5 + 32 = 33)

/-! ## Humidity -/

/-- R70. -/
def Obligations.RhqComputesHumidityQ16 : Prop :=
  CommandWord .rhq 0x5#4 0x500000000#36 ∧
  (∀ s, Ready s → Completes .rhq s ((s.hraw.toNat : Int) * 100) false) ∧
  (∀ p ∈ [((0 : Int), (0 : Int)), (65535, 6553500), (1, 100), (32768, 3276800)], p.1 * 100 = p.2) ∧
  BitVec.ofInt 32 6553500 = 0x0063FF9C#32 ∧ BitVec.ofInt 32 3276800 = 0x00320000#32

/-- R71; the division agrees with the floor and with a right shift by 16. -/
def Obligations.RhComputesHumidityWhole : Prop :=
  CommandWord .rh 0x4#4 0x400000000#36 ∧
  (∀ s, Ready s → Completes .rh s (units ((s.hraw.toNat : Int) * 100)) false) ∧
  (∀ h : Nat, units ((h : Int) * 100) = ((h * 100 / 65536 : Nat) : Int) ∧ h * 100 / 65536 = (h * 100) >>> 16) ∧
  (∀ p ∈ [((0 : Int), (0 : Int)), (655, 0), (656, 1), (32767, 49), (32768, 50), (65535, 99)],
    units (p.1 * 100) = p.2)

/-- R72, R73: ranges, monotonicity, no wrap; RH never gives 100. -/
def Obligations.HumidityRanges : Prop :=
  (∀ h : U16, 0 ≤ rhQ16 h ∧ rhQ16 h ≤ 6553500 ∧ rhQ16 h < 2 ^ 23 ∧ 0 ≤ whole (rhQ16 h) ∧ whole (rhQ16 h) ≤ 99 ∧
    (rhWord32 h).toInt = rhQ16 h) ∧
  (∀ s s', Ready s → Ready s' → s.hraw ≤ s'.hraw → ∀ i ∈ humidityCommands,
    ∃ t t', exec i s = .next t ∧ exec i s' = .next t' ∧ t.result.toInt ≤ t'.result.toInt) ∧
  (∀ s s', Ready s → Ready s' → s.hraw < s'.hraw →
    ∃ t t', exec .rhq s = .next t ∧ exec .rhq s' = .next t' ∧ t.result.toInt < t'.result.toInt) ∧
  (∀ s, Ready s → ∃ t, exec .rh s = .next t ∧ t.result.toInt ≠ 100 ∧ 0 ≤ t.result.toInt ∧ t.result.toInt ≤ 99)

/-! ## Lookup -/

/-- R75: the lookup answers the bucket's index and misses when there is none; edges belong to the bucket they end. -/
def Obligations.LookupSelectsBucket : Prop :=
  ∀ lut, LutWF lut →
    (∀ h i, lookup lut h = .hit i ↔ InBucket lut h i) ∧
    (∀ h, lookup lut h = .miss ↔ ∀ i, ¬ InBucket lut h i) ∧
    (∀ h i e, lookup lut h = .hit i → lut[i]? = some e → lutValue lut i = e.value) ∧
    (∀ i e, 1 ≤ i → i ≤ 100 → lut[i]? = some e → lookup lut e.operand = .hit i) ∧
    (∀ i e, i < 100 → lut[i]? = some e → lookup lut (e.operand + 1#16) = .hit (i + 1))

/-- R76: under LutWF the buckets are non-empty, disjoint, and cover exactly the interval above entry 0's operand up to entry 100's. -/
def Obligations.BucketsPartitionTheRange : Prop :=
  ∀ lut, LutWF lut →
    (∀ i, 1 ≤ i → i ≤ 100 → ∃ h, InBucket lut h i) ∧
    (∀ h i j, InBucket lut h i → InBucket lut h j → i = j) ∧
    (∀ h, (∃ i, InBucket lut h i) ↔
      ∃ first last, lut[0]? = some first ∧ lut[100]? = some last ∧ first.operand < h ∧ h ≤ last.operand)

/-- R77: the miss cases, in general, under W3, and with LUT_REF. -/
def Obligations.LookupMissCases : Prop :=
  (∀ lut, LutWF lut → ∀ h first last, lut[0]? = some first → lut[100]? = some last →
    (lookup lut h = .miss ↔ h ≤ first.operand ∨ last.operand < h) ∧
    (lookup lut h = .miss ↔ h = 0 ∨ last.operand < h)) ∧
  (∀ h : U16, lookup lutRef h = .miss ↔ h = 0 ∨ 65501 ≤ h.toNat)

/-- R78: a hit's index is at least 1, and no command's outcome depends on entry 0's value. -/
def Obligations.SentinelEntryNeverRead : Prop :=
  (∀ lut h i, lookup lut h = .hit i → 1 ≤ i) ∧
  (∀ (s : State) (v : Word32) i t, LutWF s.lut → exec i s = .next t →
    exec i { s with lut := s.lut.modifyHead fun e => { e with value := v } } =
      .next { t with lut := s.lut.modifyHead fun e => { e with value := v } })

/-- The selected index and the selected value are non-decreasing in the raw humidity, and the value is at most 0. -/
def Obligations.LookupMonotone : Prop :=
  ∀ lut, LutWF lut → ∀ h h' i j, h ≤ h' → lookup lut h = .hit i → lookup lut h' = .hit j →
    i ≤ j ∧ (lutValue lut i).toInt ≤ (lutValue lut j).toInt ∧ (lutValue lut j).toInt ≤ 0

/-- R83: with LUT_REF the lookup has a closed form. -/
def Obligations.LutRefLookupClosedForm : Prop :=
  (∀ h : U16, 1 ≤ h.toNat → h.toNat ≤ 65500 → lookup lutRef h = .hit ((h.toNat + 654) / 655)) ∧
  lookup lutRef 0#16 = .miss ∧
  (∀ h : U16, 65501 ≤ h.toNat → lookup lutRef h = .miss) ∧
  (∀ p ∈ [(655#16, 1), (656#16, 2), (32750#16, 50), (32751#16, 51), (65500#16, 100)],
    lookup lutRef p.1 = .hit p.2)

/-- R81. -/
def Obligations.LnhReturnsTableValue : Prop :=
  CommandWord .lnh 0xD#4 0xD00000000#36 ∧
  LookupCommand .lnh (fun _ ln => ln) ∧
  (∀ s e, Ready s → s.hraw = 1#16 → s.lut[1]? = some e → Completes .lnh s e.value.toInt false) ∧
  (∀ s e, Ready s → s.lut[100]? = some e → s.hraw = e.operand → Completes .lnh s e.value.toInt false) ∧
  (∀ s e, Ready s → s.lut[100]? = some e → e.operand.toNat < 65535 → s.hraw = e.operand + 1#16 →
    Completes .lnh s 0 true) ∧
  (∀ s, Ready s → ∃ t, exec .lnh s = .next t ∧ -2147483648 ≤ t.result.toInt ∧ t.result.toInt ≤ 0) ∧
  (∀ s, Ready s → s.lut = lutRef → s.hraw = 32768#16 → Completes .lnh s (-44128) false) ∧
  (∀ s, Ready s → s.lut = lutRef → s.hraw = 32750#16 → Completes .lnh s (-45426) false)

/-! ## Dew point -/

/-- R92. -/
def Obligations.DcqComputesDewPointQ16 : Prop :=
  CommandWord .dcq 0x9#4 0x900000000#36 ∧
  LookupCommand .dcq (fun t ln => dewPoint (celsius t) ln) ∧
  dewPoint (celsius 65535) 0 = 8191804 ∧ dewPoint (celsius 0) (-301804) = -5005583 ∧
  (-8431560805971 : Int).tdiv 1684431 = -5005583 ∧
  (lookup lutRef 32750#16 = .hit 50 ∧ lutValue lutRef 50 = BitVec.ofInt 32 (-45426) ∧ celsius 25817 = 1638365 ∧
    (1155072 : Int) * 1638365 = 1892429537280 ∧ (15927869 : Int) + 1638365 = 17566234 ∧
    (1892429537280 : Int).tdiv 17566234 = 107731 ∧ (-45426 : Int) + 107731 = 62305 ∧
    (15927869 : Int) * 62305 = 992385878045 ∧ (1155072 : Int) - 62305 = 1092767 ∧
    (992385878045 : Int).tdiv 1092767 = 908140) ∧
  (∀ s, Ready s → s.lut = lutRef → s.traw = 25817#16 → s.hraw = 32750#16 → Completes .dcq s 908140 false)

/-- R93. -/
def Obligations.DcComputesDewPointWhole : Prop :=
  CommandWord .dc 0x8#4 0x800000000#36 ∧
  LookupCommand .dc (fun t ln => units (dewPoint (celsius t) ln)) ∧
  (∀ D : Int, -65535 ≤ D → D ≤ 65535 → units D = 0) ∧ units (-510283) = -7 ∧
  (∀ s, Ready s → s.lut = lutRef → s.traw = 25817#16 → s.hraw = 32750#16 → Completes .dc s 13 false)

/-- R94. -/
def Obligations.DfqComputesDewPointFahrenheitQ16 : Prop :=
  CommandWord .dfq 0xB#4 0xB00000000#36 ∧
  LookupCommand .dfq (fun t ln => fahrenheit (dewPoint (celsius t) ln)) ∧
  fahrenheit 0 = 2097152 ∧ (-510283 * 9 : Int).tdiv 5 = -918509 ∧ fahrenheit (-510283) = 1178643 ∧
  (∀ s, Ready s → s.lut = lutRef → s.traw = 25817#16 → s.hraw = 32750#16 → Completes .dfq s 3731804 false)

/-- R96. -/
def Obligations.DfComputesDewPointFahrenheitWhole : Prop :=
  CommandWord .df 0xA#4 0xA00000000#36 ∧
  LookupCommand .df (fun t ln => units (fahrenheit (dewPoint (celsius t) ln))) ∧
  units (fahrenheit (-510283)) = 17 ∧
  (∀ s, Ready s → s.lut = lutRef → s.traw = 25817#16 → s.hraw = 32750#16 → Completes .df s 56 false)

/-- R91, R106: on a miss the five lookup commands complete with RESULT = 0, MISS = 1, RV = 1 and ERR = 0, also in Fahrenheit, and the engine goes on to the next command. -/
def Obligations.MissIsResultNotFault : Prop :=
  ∀ s, Ready s → Misses s.lut s.hraw → ∀ i ∈ lookupCommands,
    ∃ t, exec i s = .next t ∧ t.result = 0#32 ∧ t.miss = true ∧ t.rv = true ∧ t.err = false ∧ Ready t

/-- R84: the model's chain is the printed formula, for every sample and every selectable value. -/
def Obligations.DewChainIsPrintedFormula : Prop :=
  ∀ (t : U16) (ln : Int), ln ≤ 0 → dewQ16 (tempQ16 t) ln =
    (15927869 * (ln + (1155072 * tempQ16 t).tdiv (15927869 + tempQ16 t))).tdiv
      (1155072 - ln - (1155072 * tempQ16 t).tdiv (15927869 + tempQ16 t))

/-- R86: the range of the product, and that it needs more than 32 bits for every TRAW outside [15877, 15898]. -/
def Obligations.TemperatureProductNeedsMoreThan32Bits : Prop :=
  ∀ t : U16,
    (-3027951943680 ≤ Config.dewB * tempQ16 t ∧ Config.dewB * tempQ16 t ≤ 9462159237120) ∧
    (2 ^ 31 ≤ |Config.dewB * tempQ16 t| ↔ t.toNat < 15877 ∨ 15898 < t.toNat)

/-- R97: no division of the chain divides by zero under LutWF, and a denominator of 0 or less would need a value of at least 762773. -/
def Obligations.DewDivisorsArePositive : Prop :=
  (∀ t : U16, 13306429 ≤ Config.dewA + tempQ16 t) ∧
  (∀ lut, LutWF lut → ∀ (t h : U16) i, lookup lut h = .hit i →
    762773 ≤ Config.dewB - dewG (tempQ16 t) (lutValue lut i).toInt) ∧
  (∀ (t : U16) (ln : Int), Config.dewB - dewG (tempQ16 t) ln ≤ 0 → 762773 ≤ ln)

/-- The ranges of the dew-point family (44_dew_point.md section 2) for every sample, every hit and every well-formed table, T to D * 9 and the four results, and the tighter ones with LUT_REF. -/
def Obligations.DewPointRanges : Prop :=
  (∀ lut, LutWF lut → ∀ (t h : U16) i, lookup lut h = .hit i →
    (-2621440 ≤ tempQ16 t ∧ tempQ16 t ≤ 8191835) ∧
    (-3027951943680 ≤ Config.dewB * tempQ16 t ∧ Config.dewB * tempQ16 t ≤ 9462159237120) ∧
    (13306429 ≤ Config.dewA + tempQ16 t ∧ Config.dewA + tempQ16 t ≤ 24119704) ∧
    (-227555 ≤ dewM (tempQ16 t) ∧ dewM (tempQ16 t) ≤ 392299) ∧
    (-2147711203 ≤ dewG (tempQ16 t) (lutValue lut i).toInt ∧ dewG (tempQ16 t) (lutValue lut i).toInt ≤ 392299) ∧
    (-34208462691216407 ≤ Config.dewA * dewG (tempQ16 t) (lutValue lut i).toInt ∧
      Config.dewA * dewG (tempQ16 t) (lutValue lut i).toInt ≤ 6248487080831) ∧
    (762773 ≤ Config.dewB - dewG (tempQ16 t) (lutValue lut i).toInt ∧
      Config.dewB - dewG (tempQ16 t) (lutValue lut i).toInt ≤ 2148866275) ∧
    (-15919307 ≤ dewOf t (lutValue lut i) ∧ dewOf t (lutValue lut i) ≤ 8191804) ∧
    (-242 ≤ whole (dewOf t (lutValue lut i)) ∧ whole (dewOf t (lutValue lut i)) ≤ 124) ∧
    (-143273763 ≤ dewOf t (lutValue lut i) * 9 ∧ dewOf t (lutValue lut i) * 9 ≤ 73726236) ∧
    (-26557600 ≤ fahrQ16 (dewOf t (lutValue lut i)) ∧ fahrQ16 (dewOf t (lutValue lut i)) ≤ 16842399) ∧
    (-405 ≤ whole (fahrQ16 (dewOf t (lutValue lut i))) ∧ whole (fahrQ16 (dewOf t (lutValue lut i))) ≤ 256)) ∧
  (∀ (t h : U16) i, lookup lutRef h = .hit i →
    (-5005583 ≤ dewOf t (lutValue lutRef i) ∧ dewOf t (lutValue lutRef i) ≤ 8191804) ∧
    (-76 ≤ whole (dewOf t (lutValue lutRef i)) ∧ whole (dewOf t (lutValue lutRef i)) ≤ 124) ∧
    (-6912897 ≤ fahrQ16 (dewOf t (lutValue lutRef i)) ∧ fahrQ16 (dewOf t (lutValue lutRef i)) ≤ 16842399) ∧
    (-105 ≤ whole (fahrQ16 (dewOf t (lutValue lutRef i))) ∧ whole (fahrQ16 (dewOf t (lutValue lutRef i))) ≤ 256))

/-- The dew point rises with the temperature and with the humidity: over the hits of one table, a larger TRAW and a larger HRAW give no smaller result, for all four commands. -/
def Obligations.DewPointMonotone : Prop :=
  ∀ s s', Ready s → Ready s' → s.lut = s'.lut → s.traw ≤ s'.traw → s.hraw ≤ s'.hraw →
    ¬ Misses s.lut s.hraw → ¬ Misses s'.lut s'.hraw → ∀ i ∈ dewCommands,
    ∃ t t', exec i s = .next t ∧ exec i s' = .next t' ∧ t.result.toInt ≤ t'.result.toInt

/-- A 64-bit two's-complement chain gives the integer chain's value for every sample and every selectable value, and RESULT is its low 32 bits. -/
def Obligations.WordChainEqualsIntegerChain : Prop :=
  (∀ (t : U16) (v : Word32), v.toInt ≤ 0 → (dewWord64 t v).toInt = dewOf t v) ∧
  (∀ s i, Ready s → lookup s.lut s.hraw = .hit i →
    ∃ t, exec .dcq s = .next t ∧ t.result = (dewWord64 s.traw (lutValue s.lut i)).truncate 32)

/-- Two samples with the same TRAW and HRAW in the same bucket give the same results in all four dew-point commands. -/
def Obligations.SameBucketSameDewPoint : Prop :=
  ∀ s s' k, Ready s → Ready s' → s.lut = s'.lut → s.traw = s'.traw → InBucket s.lut s.hraw k →
    InBucket s.lut s'.hraw k → ∀ i ∈ dewCommands,
    ∃ t t', exec i s = .next t ∧ exec i s' = .next t' ∧ t.result = t'.result ∧ t.miss = false ∧ t'.miss = false

/-! ## Across the families -/

/-- R24: RESULT and MISS after a conversion are pure functions of the sample and the table, and the same conversion again changes nothing. -/
def Obligations.ConversionsArePure : Prop :=
  ∀ i ∈ conversionCommands, ∃ (f : U16 → U16 → List LutEntry → Word32) (m : U16 → List LutEntry → Bool),
    ∀ s, Ready s → ∃ t, exec i s = .next t ∧ t.result = f s.traw s.hraw s.lut ∧ t.miss = m s.hraw s.lut ∧
      exec i t = .next t

/-- R23: who writes MISS and what, and that no command reads it; no step over a word in the halted state changes it either. -/
def Obligations.MissFlagRule : Prop :=
  (∀ s, Ready s → ∀ i ∈ temperatureCommands ++ humidityCommands, ∃ t, exec i s = .next t ∧ t.miss = false) ∧
  (∀ s, Ready s → ∀ i ∈ lookupCommands, ∃ t, exec i s = .next t ∧ (t.miss = true ↔ lookup s.lut s.hraw = .miss) ∧
    (t.miss = true → t.result = 0#32)) ∧
  (∀ s arg, Accepting s → ∃ t, exec (.lds arg) s = .next t ∧ t.miss = s.miss) ∧
  (∀ s w rest, Accepting s → s.port = .issue w :: rest → ((∃ y, decode w = .illegal y) ∨ s.sv = false) →
    ∃ t, step s = .next t ∧ t.miss = s.miss) ∧
  (∀ s t w rest, s.err = true → s.port = .issue w :: rest → step s = .next t → t.miss = s.miss) ∧
  (∀ s i t, exec i s = .next t →
    ∃ t', exec i { s with status := s.status ^^^ 0b000100#6 } = .next t' ∧ t'.result = t.result ∧ t'.sample = t.sample ∧
      t'.sv = t.sv ∧ t'.rv = t.rv ∧ t'.err = t.err ∧ t'.cause = t.cause ∧
      (Ready s → i.isConversion = true → t'.miss = t.miss))

/-- What each family reads: two ready engines that agree on it give the same RESULT and MISS, whatever else differs. -/
def Obligations.ConversionsReadOnlyTheirOperands : Prop :=
  (∀ s s', Ready s → Ready s' → s.traw = s'.traw → ∀ i ∈ temperatureCommands,
    ∃ t t', exec i s = .next t ∧ exec i s' = .next t' ∧ t.result = t'.result ∧ t.miss = t'.miss) ∧
  (∀ s s', Ready s → Ready s' → s.hraw = s'.hraw → ∀ i ∈ humidityCommands,
    ∃ t t', exec i s = .next t ∧ exec i s' = .next t' ∧ t.result = t'.result ∧ t.miss = t'.miss) ∧
  (∀ s s', Ready s → Ready s' → s.hraw = s'.hraw → s.lut = s'.lut →
    ∃ t t', exec .lnh s = .next t ∧ exec .lnh s' = .next t' ∧ t.result = t'.result ∧ t.miss = t'.miss) ∧
  (∀ s s', Ready s → Ready s' → s.traw = s'.traw → s.hraw = s'.hraw → s.lut = s'.lut → ∀ i ∈ dewCommands,
    ∃ t t', exec i s = .next t ∧ exec i s' = .next t' ∧ t.result = t'.result ∧ t.miss = t'.miss)

/-- The whole-unit command's result is the Q16 command's divided by 65536 toward zero, for the same sample, on a miss too; and on a hit the Fahrenheit dew point is the converted Celsius one. -/
def Obligations.WholeCommandsTruncateQ16 : Prop :=
  (∀ s, Ready s → ∀ p ∈ [(Instr.tc, Instr.tcq), (.tf, .tfq), (.rh, .rhq), (.dc, .dcq), (.df, .dfq)],
    ∃ t t', exec p.1 s = .next t ∧ exec p.2 s = .next t' ∧ t.result.toInt = units t'.result.toInt ∧ t.miss = t'.miss) ∧
  (∀ s, Ready s → ∃ t t', exec .dcq s = .next t ∧ exec .dfq s = .next t' ∧
    (¬ Misses s.lut s.hraw → t'.result.toInt = fahrenheit t.result.toInt) ∧
    (Misses s.lut s.hraw → t.result = 0#32 ∧ t'.result = 0#32))

/-! ## Runs -/

/-- Every run of the host from a legal state ends in a legal state: no action of the host faults or is refused in the model, and a run ends either successfully or in the halted state. -/
def Obligations.HostRunsEndInLegalStates : Prop :=
  ∀ acts s, MachineInv s → ∃ t, hostRun acts s = .next t ∧ MachineInv t ∧ t.lut = s.lut ∧
    (Successful (hostRun acts s) ↔ t.err = false)

/-- A successful run, as the spec defines runs, is what the machine's steps do with the same actions on its port: as many steps as actions, the same registers at the end.
The list of actions on the port, one taken by each step, is the model's form of the command port (log entry 5). -/
def Obligations.SuccessfulRunsAreSteps : Prop :=
  ∀ acts (s t : State), LutWF s.lut → hostRun acts s = .next t → t.err = false →
    ∃ u : State, Host.Core.run core acts.length { s with port := acts } = .next u ∧ SameRegisters t u ∧ u.port = [] ∧
      u.draws = t.draws

/-! ## Assembler -/

/-- R53: the two pseudo-commands expand to one LDS that loads their operands, and only within their bounds. -/
def Obligations.PseudoCommandsExpandToLds : Prop :=
  (∀ t h : Nat, t ≤ 65535 → h ≤ 65535 →
    asmExpand (.lds2 t h) = some (.lds (BitVec.ofNat 32 (t * 65536 + h))) ∧
    ∀ s, Accepting s → ∃ u, exec (.lds (BitVec.ofNat 32 (t * 65536 + h))) s = .next u ∧ u.traw.toNat = t ∧
      u.hraw.toNat = h) ∧
  (∀ b0 b1 b2 b3 : BitVec 8,
    asmExpand (.ldb b0.toNat b1.toNat b2.toNat b3.toNat) = some (.lds (frameWord b0 b1 b2 b3))) ∧
  (∀ t h : Nat, (65535 < t ∨ 65535 < h) → asmExpand (.lds2 t h) = none) ∧
  (∀ b0 b1 b2 b3 : Nat, (255 < b0 ∨ 255 < b1 ∨ 255 < b2 ∨ 255 < b3) → asmExpand (.ldb b0 b1 b2 b3) = none) ∧
  asmExpand (.ldb 0x3F 0xFF 0x80 0x00) = some (.lds 0x3FFF8000#32) ∧
  asmExpand (.lds2 0x3FFF 0x8000) = some (.lds 0x3FFF8000#32)

/-- Every command's line of text, read back, is that command, and assembles to its word. -/
def Obligations.AssemblyTextRoundTrip : Prop :=
  ∀ i, parseLine (asmText i) = some (.command i) ∧ assemble (asmText i) = some (encode i)
end

