-- ==== Sys2Proof/Laws/FixedPoint.lean ====
section
/-! SUPPORT. Laws of truncating division and of the fixed-point functions, and narrowing to 32 bits. -/

namespace Sys2Proof.Machine

/-! ## Truncating division (R10) -/

/-- With a nonzero divisor the 64-bit division is two's-complement division truncating toward zero. -/
theorem sdivWord64_of_ne_zero {a b : Word64} (h : b ≠ 0#64) : sdivWord64 a b = a.sdiv b := if_neg h

/-- With a nonzero divisor `sdiv` is truncation toward zero. -/
theorem sdiv_of_ne_zero {a b : Int} (h : b ≠ 0) : sdiv a b = a.tdiv b := if_neg h

/-- A positive divisor, in floor form: the floor for a dividend that is not negative. -/
theorem sdiv_of_nonneg {a b : Int} (ha : 0 ≤ a) (hb : 0 < b) : sdiv a b = a / b := by
  rw [sdiv_of_ne_zero hb.ne', Int.tdiv_eq_ediv_of_nonneg ha]

/-- A positive divisor and a negative dividend: the negated floor of the magnitude. -/
theorem sdiv_of_nonpos {a b : Int} (ha : a ≤ 0) (hb : 0 < b) : sdiv a b = -(-a / b) := by
  have h : (-a).tdiv b = -a / b := Int.tdiv_eq_ediv_of_nonneg (by omega)
  rw [sdiv_of_ne_zero hb.ne', ← h, Int.neg_tdiv, neg_neg]

/-- `sdiv` by a positive divisor is monotone in the dividend. -/
theorem sdiv_mono {a a' b : Int} (hb : 0 < b) (h : a ≤ a') : sdiv a b ≤ sdiv a' b := by
  rcases le_total 0 a with ha | ha
  · rw [sdiv_of_nonneg ha hb, sdiv_of_nonneg (ha.trans h) hb]
    exact Int.ediv_le_ediv hb h
  · rw [sdiv_of_nonpos ha hb]
    rcases le_total 0 a' with ha' | ha'
    · rw [sdiv_of_nonneg ha' hb]
      have h1 : 0 ≤ -a / b := Int.ediv_nonneg (by omega) hb.le
      have h2 : 0 ≤ a' / b := Int.ediv_nonneg ha' hb.le
      omega
    · rw [sdiv_of_nonpos ha' hb]
      exact neg_le_neg (Int.ediv_le_ediv hb (by omega))

/-- A truncating quotient is at least `q` when `q` is at most 0 and lies below the exact quotient, less one. -/
theorem le_sdiv_of_nonpos {a b q : Int} (hb : 0 < b) (hq : q ≤ 0) (h : (q - 1) * b < a) : q ≤ sdiv a b := by
  rcases le_total 0 a with ha | ha
  · rw [sdiv_of_nonneg ha hb]
    exact hq.trans (Int.ediv_nonneg ha hb.le)
  · rw [sdiv_of_nonpos ha hb]
    have : -a / b < 1 - q := Int.ediv_lt_of_lt_mul hb (by linarith [sub_mul q 1 b, sub_mul 1 q b])
    omega

/-- A truncating quotient is at most `q` when `q` is at least 0 and lies above the exact quotient, less one. -/
theorem sdiv_le_of_nonneg {a b q : Int} (hb : 0 < b) (hq : 0 ≤ q) (h : a < (q + 1) * b) : sdiv a b ≤ q := by
  rcases le_total 0 a with ha | ha
  · rw [sdiv_of_nonneg ha hb]
    exact Int.lt_add_one_iff.mp (Int.ediv_lt_of_lt_mul hb h)
  · rw [sdiv_of_nonpos ha hb]
    have : 0 ≤ -a / b := Int.ediv_nonneg (by omega) hb.le
    omega

/-! ## The functions with their numerals -/

/-- R59 with its numerals. -/
theorem tempQ16_eq (t : U16) : tempQ16 t = (t.toNat : Int) * 165 - 2621440 := rfl

/-- R69 with its numeral. -/
theorem rhQ16_eq (h : U16) : rhQ16 h = (h.toNat : Int) * 100 := rfl

/-- R60 as truncating division by 65536. -/
theorem whole_eq (q : Int) : whole q = q.tdiv 65536 := sdiv_of_ne_zero (by decide)

/-- R61 as truncating division by 5. -/
theorem fahrQ16_eq (c : Int) : fahrQ16 c = (c * 9).tdiv 5 + 2097152 := by
  rw [fahrQ16, sdiv_of_ne_zero (by decide)]; rfl

/-- A raw field is below 65536. -/
theorem raw_lt (t : U16) : t.toNat < 65536 := t.isLt

/-- The whole-unit value is monotone. -/
theorem whole_mono {a b : Int} (h : a ≤ b) : whole a ≤ whole b := sdiv_mono (by decide) h

/-- The Fahrenheit value is monotone. -/
theorem fahrQ16_mono {a b : Int} (h : a ≤ b) : fahrQ16 a ≤ fahrQ16 b :=
  add_le_add_left (sdiv_mono (by decide) (mul_le_mul_of_nonneg_right h (by decide))) _

/-! ## Narrowing -/

/-- A value in the signed 32-bit range survives in RESULT (R21). -/
theorem toInt_toResult {v : Int} (h1 : -2147483648 ≤ v) (h2 : v ≤ 2147483647) : (toResult v).toInt = v := by
  rw [toResult, BitVec.toInt_ofInt, Int.bmod_eq_of_le] <;> omega

end Sys2Proof.Machine
end

