-- ==== Sys2Proof/Laws/Flags.lean ====
section
/-! SUPPORT. What each update of STATUS does to each field (one lemma per field per update). -/

namespace Sys2Proof.Machine.Flags

@[simp] theorem sv_sampleLoaded : ∀ st, sv (sampleLoaded st) = true := by decide +kernel
@[simp] theorem rv_sampleLoaded : ∀ st, rv (sampleLoaded st) = rv st := by decide +kernel
@[simp] theorem miss_sampleLoaded : ∀ st, miss (sampleLoaded st) = miss st := by decide +kernel
@[simp] theorem err_sampleLoaded : ∀ st, err (sampleLoaded st) = err st := by decide +kernel
@[simp] theorem cause_sampleLoaded : ∀ st, cause (sampleLoaded st) = cause st := by decide +kernel

@[simp] theorem sv_converted : ∀ st m, sv (converted st m) = sv st := by decide +kernel
@[simp] theorem rv_converted : ∀ st m, rv (converted st m) = true := by decide +kernel
@[simp] theorem miss_converted : ∀ st m, miss (converted st m) = m := by decide +kernel
@[simp] theorem err_converted : ∀ st m, err (converted st m) = err st := by decide +kernel
@[simp] theorem cause_converted : ∀ st m, cause (converted st m) = cause st := by decide +kernel

@[simp] theorem sv_faulted (st : StatusWord) (c : Cause) : sv (faulted st c) = sv st := by
  cases c <;> revert st <;> decide +kernel
@[simp] theorem rv_faulted (st : StatusWord) (c : Cause) : rv (faulted st c) = rv st := by
  cases c <;> revert st <;> decide +kernel
@[simp] theorem miss_faulted (st : StatusWord) (c : Cause) : miss (faulted st c) = miss st := by
  cases c <;> revert st <;> decide +kernel
@[simp] theorem err_faulted (st : StatusWord) (c : Cause) : err (faulted st c) = true := by
  cases c <;> revert st <;> decide +kernel
@[simp] theorem cause_faulted (st : StatusWord) (c : Cause) : cause (faulted st c) = causeCode c := by
  cases c <;> revert st <;> decide +kernel

/-- Two status words with equal fields are equal. -/
theorem ext_fields {a b : StatusWord} (h0 : sv a = sv b) (h1 : rv a = rv b) (h2 : miss a = miss b)
    (h3 : err a = err b) (h4 : cause a = cause b) : a = b := by
  have key : ∀ st, pack (cause st) (err st) (miss st) (rv st) (sv st) = st := by decide +kernel
  rw [← key a, ← key b, h0, h1, h2, h3, h4]

/-- The same conversion recorded twice is recorded once. -/
@[simp] theorem converted_converted (st : StatusWord) (m m' : Bool) :
    converted (converted st m) m' = converted st m' := by
  apply ext_fields <;> simp

/-- Flipping MISS leaves the other fields. -/
@[simp] theorem sv_flipMiss : ∀ st : StatusWord, sv (st ^^^ 0b000100#6) = sv st := by decide +kernel
@[simp] theorem rv_flipMiss : ∀ st : StatusWord, rv (st ^^^ 0b000100#6) = rv st := by decide +kernel
@[simp] theorem err_flipMiss : ∀ st : StatusWord, err (st ^^^ 0b000100#6) = err st := by decide +kernel
@[simp] theorem cause_flipMiss : ∀ st : StatusWord, cause (st ^^^ 0b000100#6) = cause st := by decide +kernel

end Sys2Proof.Machine.Flags
end

