-- ==== Sys2Proof/Laws/LogLookup.lean ====
section
/-! SUPPORT. LutWF clause by clause at an index, as R17 words it, and what a lookup conversion latches. -/

namespace Sys2Proof.Machine

section
variable {lut : List LutEntry} (hw : LutWF lut)
include hw

/-- W1: every index up to 100 has an entry. -/
theorem lut_entry_exists {i : Nat} (h : i ≤ 100) : ∃ e, lut[i]? = some e := by
  have hl : lut.length = 101 := hw.1
  exact ⟨lut[i], List.getElem?_eq_getElem (by omega)⟩

/-- W1: an entry's index is at most 100. -/
theorem lut_index_le {i : Nat} {e : LutEntry} (h : lut[i]? = some e) : i ≤ 100 := by
  have hl : lut.length = 101 := hw.1
  obtain ⟨h, -⟩ := List.getElem?_eq_some_iff.mp h
  omega

/-- W2 between any two entries: operands increase with the index. -/
theorem lut_operand_lt {i j : Nat} {a b : LutEntry} (hij : i < j) (ha : lut[i]? = some a) (hb : lut[j]? = some b) :
    a.operand < b.operand := by
  obtain ⟨h1, rfl⟩ := List.getElem?_eq_some_iff.mp ha
  obtain ⟨h2, rfl⟩ := List.getElem?_eq_some_iff.mp hb
  have hc : (lut.map LutEntry.operand).IsChain (· < ·) := (List.isChain_map _).mpr hw.2.1
  have h := List.pairwise_iff_getElem.mp hc.pairwise i j (by simpa using h1) (by simpa using h2) hij
  rwa [List.getElem_map, List.getElem_map] at h

/-- W3: entry 0's operand is 0. -/
theorem lut_first_operand {e : LutEntry} (h : lut[0]? = some e) : e.operand = 0 := by
  have h3 : lut.head?.map LutEntry.operand = some 0 := hw.2.2.1
  rw [List.head?_eq_getElem?, h] at h3
  simpa using h3

/-- W4 between any two selectable entries: values do not decrease with the index. -/
theorem lut_value_le {i j : Nat} {a b : LutEntry} (hi : 1 ≤ i) (hij : i ≤ j) (ha : lut[i]? = some a)
    (hb : lut[j]? = some b) : a.value.toInt ≤ b.value.toInt := by
  rcases hij.eq_or_lt with rfl | hlt
  · rw [ha] at hb; cases hb; rfl
  · have ha' : lut.tail[i - 1]? = some a := by rw [List.getElem?_tail, Nat.sub_add_cancel hi, ha]
    have hb' : lut.tail[j - 1]? = some b := by rw [List.getElem?_tail, Nat.sub_add_cancel (hi.trans hij), hb]
    obtain ⟨h1, rfl⟩ := List.getElem?_eq_some_iff.mp ha'
    obtain ⟨h2, rfl⟩ := List.getElem?_eq_some_iff.mp hb'
    have hc : (lut.tail.map fun e => e.value.toInt).IsChain (· ≤ ·) := (List.isChain_map _).mpr hw.2.2.2.1
    simpa using List.pairwise_iff_getElem.mp hc.pairwise (i - 1) (j - 1) (by simpa using h1) (by simpa using h2)
      (by omega)

/-- W5: a selectable value is at most 0. -/
theorem lut_value_nonpos {i : Nat} {e : LutEntry} (hi : 1 ≤ i) (h : lut[i]? = some e) : e.value.toInt ≤ 0 := by
  refine hw.2.2.2.2 e (List.mem_of_getElem? (i := i - 1) ?_)
  rw [List.getElem?_tail, Nat.sub_add_cancel hi, h]

end

/-! ## What a conversion through the lookup latches -/

/-- On a hit. -/
theorem throughLookup_hit {f : U16 → Word32 → Word32} {t h : U16} {lut : List LutEntry} {i : Nat}
    (hl : lookup lut h = .hit i) : throughLookup f t h lut = ⟨f t (lutValue lut i), false⟩ := by
  simp [throughLookup, hl]

/-- On a miss (R91). -/
theorem throughLookup_miss {f : U16 → Word32 → Word32} {t h : U16} {lut : List LutEntry}
    (hl : lookup lut h = .miss) : throughLookup f t h lut = ⟨0#32, true⟩ := by
  simp [throughLookup, hl]

/-- The value at an index of the table. -/
theorem lutValue_of_entry {lut : List LutEntry} {i : Nat} {e : LutEntry} (h : lut[i]? = some e) :
    lutValue lut i = e.value := by
  simp [lutValue, h]

end Sys2Proof.Machine
end

