-- ==== Sys2Proof/Laws/State.lean ====
section
/-! SUPPORT. One lemma per derived field per update of the state: taking an action off the port, latching a conversion, loading a sample, recording a fault. -/

namespace Sys2Proof.Machine

section Port
variable (s : State) (p : List HostAction)

@[simp] theorem traw_setPort : State.traw { s with port := p } = s.traw := rfl
@[simp] theorem hraw_setPort : State.hraw { s with port := p } = s.hraw := rfl
@[simp] theorem sv_setPort : State.sv { s with port := p } = s.sv := rfl
@[simp] theorem rv_setPort : State.rv { s with port := p } = s.rv := rfl
@[simp] theorem miss_setPort : State.miss { s with port := p } = s.miss := rfl
@[simp] theorem err_setPort : State.err { s with port := p } = s.err := rfl
@[simp] theorem cause_setPort : State.cause { s with port := p } = s.cause := rfl
@[simp] theorem resultPort_setPort : State.resultPort { s with port := p } = s.resultPort := rfl

end Port

section Latch
variable (c : Conversion) (s : State)

@[simp] theorem latch_lut : (latch c s).lut = s.lut := rfl
@[simp] theorem latch_sample : (latch c s).sample = s.sample := rfl
@[simp] theorem latch_result : (latch c s).result = c.value := rfl
@[simp] theorem latch_port : (latch c s).port = s.port := rfl
@[simp] theorem latch_draws : (latch c s).draws = s.draws := rfl
@[simp] theorem latch_traw : (latch c s).traw = s.traw := rfl
@[simp] theorem latch_hraw : (latch c s).hraw = s.hraw := rfl
@[simp] theorem latch_sv : (latch c s).sv = s.sv := Flags.sv_converted _ _
@[simp] theorem latch_rv : (latch c s).rv = true := Flags.rv_converted _ _
@[simp] theorem latch_miss : (latch c s).miss = c.miss := Flags.miss_converted _ _
@[simp] theorem latch_err : (latch c s).err = s.err := Flags.err_converted _ _
@[simp] theorem latch_cause : (latch c s).cause = s.cause := Flags.cause_converted _ _

/-- Latching twice keeps the second value only. -/
@[simp] theorem latch_latch (c' : Conversion) : latch c' (latch c s) = latch c' s := by
  simp [latch]

end Latch

section Load
variable (a : Word32) (s : State)

@[simp] theorem sv_load :
    State.sv { s with sample := a, status := Flags.sampleLoaded s.status } = true := Flags.sv_sampleLoaded _
@[simp] theorem rv_load :
    State.rv { s with sample := a, status := Flags.sampleLoaded s.status } = s.rv := Flags.rv_sampleLoaded _
@[simp] theorem miss_load :
    State.miss { s with sample := a, status := Flags.sampleLoaded s.status } = s.miss := Flags.miss_sampleLoaded _
@[simp] theorem err_load :
    State.err { s with sample := a, status := Flags.sampleLoaded s.status } = s.err := Flags.err_sampleLoaded _
@[simp] theorem cause_load :
    State.cause { s with sample := a, status := Flags.sampleLoaded s.status } = s.cause := Flags.cause_sampleLoaded _

end Load

section Reset
variable (s : State)

@[simp] theorem clearedByReset_lut : (clearedByReset s).lut = s.lut := rfl
@[simp] theorem clearedByReset_status : (clearedByReset s).status = 0#6 := rfl
@[simp] theorem clearedByReset_port : (clearedByReset s).port = s.port := rfl
@[simp] theorem clearedByReset_draws : (clearedByReset s).draws = s.draws + 1 := rfl
@[simp] theorem clearedByReset_sv : (clearedByReset s).sv = false := by
  show Flags.sv 0#6 = false; decide
@[simp] theorem clearedByReset_rv : (clearedByReset s).rv = false := by
  show Flags.rv 0#6 = false; decide
@[simp] theorem clearedByReset_miss : (clearedByReset s).miss = false := by
  show Flags.miss 0#6 = false; decide
@[simp] theorem clearedByReset_err : (clearedByReset s).err = false := by
  show Flags.err 0#6 = false; decide
@[simp] theorem clearedByReset_cause : (clearedByReset s).cause = 0#2 := by
  show Flags.cause 0#6 = 0#2; decide

end Reset

section Raise
variable (c : Cause) (s : State)

/-- Fault entry in a halted engine does nothing (R101). -/
theorem raise_halted (h : s.err = true) : raise c s = s := by simp [raise, h]

/-- Fault entry in a running engine (R101). -/
theorem raise_running (h : s.err = false) : raise c s = { s with status := Flags.faulted s.status c } := by
  simp [raise, h]

@[simp] theorem raise_lut : (raise c s).lut = s.lut := by unfold raise; split <;> rfl
@[simp] theorem raise_sample : (raise c s).sample = s.sample := by unfold raise; split <;> rfl
@[simp] theorem raise_result : (raise c s).result = s.result := by unfold raise; split <;> rfl
@[simp] theorem raise_port : (raise c s).port = s.port := by unfold raise; split <;> rfl
@[simp] theorem raise_draws : (raise c s).draws = s.draws := by unfold raise; split <;> rfl
@[simp] theorem raise_sv : (raise c s).sv = s.sv := by
  unfold raise; split <;> simp [State.sv]
@[simp] theorem raise_rv : (raise c s).rv = s.rv := by
  unfold raise; split <;> simp [State.rv]
@[simp] theorem raise_miss : (raise c s).miss = s.miss := by
  unfold raise; split <;> simp [State.miss]
@[simp] theorem raise_err : (raise c s).err = true := by
  unfold raise; split
  · assumption
  · simp [State.err]
theorem raise_cause (h : s.err = false) : (raise c s).cause = causeCode c := by
  simp [raise_running c s h, State.cause]

end Raise
end Sys2Proof.Machine
end

