-- ==== Sys2Proof/Laws/Ops.lean ====
section
/-! SUPPORT. What each shared operation, each command and each step can do, said once: if it answers a next state, then one of these cases. -/

namespace Sys2Proof.Machine

/-! ## Admission -/

/-- A machine with a well-formed table runs. -/
theorem whenConfigured_of_wf {s : State} (k : Out) (h : LutWF s.lut) : whenConfigured s k = k := if_pos h

/-- A machine with a malformed table is refused. -/
theorem whenConfigured_of_not_wf {s : State} (k : Out) (h : ¬ LutWF s.lut) :
    whenConfigured s k = .refused .tableNotWellFormed := if_neg h

/-- If an admitted operation answers a next state, the table is well formed and that state is the operation's own. -/
theorem whenConfigured_next {s t : State} {k : Out} (h : whenConfigured s k = .next t) :
    LutWF s.lut ∧ k = .next t := by
  unfold whenConfigured at h
  split at h
  · exact ⟨‹_›, h⟩
  · cases h

/-- A running engine with a well-formed table accepts the command. -/
theorem whenAccepted_of_running {s : State} (k : Out) (hw : LutWF s.lut) (he : s.err = false) :
    whenAccepted s k = k := by
  simp [whenAccepted, whenConfigured_of_wf _ hw, he]

/-- A halted engine changes nothing (R105). -/
theorem whenAccepted_of_halted {s : State} (k : Out) (hw : LutWF s.lut) (he : s.err = true) :
    whenAccepted s k = .next s := by
  simp [whenAccepted, whenConfigured_of_wf _ hw, he]

/-- If a command answers a next state, the engine was halted and nothing changed, or it was running and the state is the command's own. -/
theorem whenAccepted_next {s t : State} {k : Out} (h : whenAccepted s k = .next t) :
    LutWF s.lut ∧ ((s.err = true ∧ t = s) ∨ (s.err = false ∧ k = .next t)) := by
  obtain ⟨hw, h⟩ := whenConfigured_next h
  refine ⟨hw, ?_⟩
  cases he : s.err <;> simp [he] at h
  · exact .inr ⟨rfl, h⟩
  · exact .inl ⟨rfl, h.symm⟩

/-! ## Conversion, load, rejection, reset -/

section
variable {f : U16 → U16 → List LutEntry → Conversion} {s t : State}

/-- A conversion in an engine that holds a sample completes with its value. -/
theorem convert_of_ready (hw : LutWF s.lut) (he : s.err = false) (hv : s.sv = true) :
    convert f s = .next (latch (f s.traw s.hraw s.lut) s) := by
  simp [convert, whenAccepted_of_running _ hw he, hv]

/-- A conversion without a sample raises NoSample (R103). -/
theorem convert_of_no_sample (hw : LutWF s.lut) (he : s.err = false) (hv : s.sv = false) :
    convert f s = .next (raise .noSample s) := by
  simp [convert, whenAccepted_of_running _ hw he, hv]

/-- Everything a conversion can do. -/
theorem convert_next (h : convert f s = .next t) :
    LutWF s.lut ∧ ((s.err = true ∧ t = s) ∨ (s.err = false ∧ s.sv = false ∧ t = raise .noSample s) ∨
      (s.err = false ∧ s.sv = true ∧ t = latch (f s.traw s.hraw s.lut) s)) := by
  obtain ⟨hw, ⟨he, rfl⟩ | ⟨he, h⟩⟩ := whenAccepted_next h
  · exact ⟨hw, .inl ⟨he, rfl⟩⟩
  · refine ⟨hw, .inr ?_⟩
    cases hv : s.sv <;> simp [hv] at h
    · exact .inl ⟨he, rfl, h.symm⟩
    · exact .inr ⟨he, rfl, h.symm⟩

/-- A sample load in a running engine. -/
theorem loadSample_of_running (a : Word32) (hw : LutWF s.lut) (he : s.err = false) :
    loadSample a s = .next { s with sample := a, status := Flags.sampleLoaded s.status } := by
  simp [loadSample, whenAccepted_of_running _ hw he]

/-- Everything a sample load can do. -/
theorem loadSample_next {a : Word32} (h : loadSample a s = .next t) :
    LutWF s.lut ∧ ((s.err = true ∧ t = s) ∨
      (s.err = false ∧ t = { s with sample := a, status := Flags.sampleLoaded s.status })) := by
  obtain ⟨hw, h | ⟨he, h⟩⟩ := whenAccepted_next h
  · exact ⟨hw, .inl h⟩
  · exact ⟨hw, .inr ⟨he, by simpa using h.symm⟩⟩

/-- An illegal word in a running engine. -/
theorem rejectWord_of_running (hw : LutWF s.lut) (he : s.err = false) :
    rejectWord s = .next (raise .illegalCommand s) := by
  simp [rejectWord, whenAccepted_of_running _ hw he]

/-- Everything an illegal word can do. -/
theorem rejectWord_next (h : rejectWord s = .next t) :
    LutWF s.lut ∧ ((s.err = true ∧ t = s) ∨ (s.err = false ∧ t = raise .illegalCommand s)) := by
  obtain ⟨hw, h | ⟨he, h⟩⟩ := whenAccepted_next h
  · exact ⟨hw, .inl h⟩
  · exact ⟨hw, .inr ⟨he, by simpa using h.symm⟩⟩

/-- Everything a host reset can do. -/
theorem hostReset_next (h : hostReset s = .next t) :
    LutWF s.lut ∧ t = clearedByReset s := by
  obtain ⟨hw, h⟩ := whenConfigured_next h
  exact ⟨hw, by simpa using h.symm⟩

/-- Everything an idle step can do. -/
theorem idle_next (h : idle s = .next t) : LutWF s.lut ∧ t = s := by
  obtain ⟨hw, h⟩ := whenConfigured_next h
  exact ⟨hw, by simpa using h.symm⟩

end

/-! ## Commands -/

/-- The function of the sample and the table that a conversion command latches (R24); LDS has none. -/
def conversionOf : Instr → Option (U16 → U16 → List LutEntry → Conversion)
  | .tc => some (ofTemperature fun t => whole (tempQ16 t))
  | .tcq => some (ofTemperature tempQ16)
  | .tf => some (ofTemperature fun t => whole (fahrQ16 (tempQ16 t)))
  | .tfq => some (ofTemperature fun t => fahrQ16 (tempQ16 t))
  | .rh => some (ofHumidity fun h => whole (rhQ16 h))
  | .rhq => some (ofHumidity rhQ16)
  | .dc => some (throughLookup fun t v => toResult (whole (dewOf t v)))
  | .dcq => some (throughLookup fun t v => toResult (dewOf t v))
  | .df => some (throughLookup fun t v => toResult (whole (fahrQ16 (dewOf t v))))
  | .dfq => some (throughLookup fun t v => toResult (fahrQ16 (dewOf t v)))
  | .lds _ => none
  | .lnh => some (throughLookup fun _ v => v)

/-- Every command is a sample load or a conversion. -/
theorem exec_shape (i : Instr) :
    (∃ a, i = .lds a ∧ i.isConversion = false ∧ exec i = loadSample a) ∨
    (∃ f, conversionOf i = some f ∧ i.isConversion = true ∧ exec i = convert f) := by
  cases i with
  | lds a => exact .inl ⟨a, rfl, rfl, rfl⟩
  | _ => exact .inr ⟨_, rfl, rfl, rfl⟩

/-- A command with a conversion function is that conversion. -/
theorem exec_of_conversionOf {i : Instr} {f : U16 → U16 → List LutEntry → Conversion} (h : conversionOf i = some f)
    (s : State) : exec i s = convert f s := by
  cases i <;> cases h <;> rfl

/-- A conversion command has a conversion function. -/
theorem conversionOf_of_isConversion {i : Instr} (h : i.isConversion = true) : ∃ f, conversionOf i = some f := by
  obtain ⟨a, -, hc, -⟩ | ⟨f, hf, -, -⟩ := exec_shape i
  · rw [h] at hc; cases hc
  · exact ⟨f, hf⟩

/-- Any command in a halted engine (R105). -/
theorem exec_of_halted (i : Instr) {s : State} (hw : LutWF s.lut) (he : s.err = true) : exec i s = .next s := by
  obtain ⟨a, -, -, h⟩ | ⟨f, -, -, h⟩ := exec_shape i <;> rw [h] <;> exact whenAccepted_of_halted _ hw he

/-- LDS in a running engine (R57). -/
theorem exec_lds_of_running (a : Word32) {s : State} (hw : LutWF s.lut) (he : s.err = false) :
    exec (.lds a) s = .next { s with sample := a, status := Flags.sampleLoaded s.status } :=
  loadSample_of_running a hw he

/-- A conversion command in an engine that holds a sample. -/
theorem exec_of_ready {i : Instr} {f : U16 → U16 → List LutEntry → Conversion} (hf : conversionOf i = some f) {s : State}
    (hw : LutWF s.lut) (he : s.err = false) (hv : s.sv = true) :
    exec i s = .next (latch (f s.traw s.hraw s.lut) s) := by
  rw [exec_of_conversionOf hf, convert_of_ready hw he hv]

/-- A conversion command without a sample (R103). -/
theorem exec_of_no_sample {i : Instr} (hc : i.isConversion = true) {s : State} (hw : LutWF s.lut) (he : s.err = false)
    (hv : s.sv = false) : exec i s = .next (raise .noSample s) := by
  obtain ⟨f, hf⟩ := conversionOf_of_isConversion hc
  rw [exec_of_conversionOf hf, convert_of_no_sample hw he hv]

/-- Everything a command can do. -/
theorem exec_next {i : Instr} {s t : State} (h : exec i s = .next t) :
    LutWF s.lut ∧ ((s.err = true ∧ t = s) ∨
      (s.err = false ∧ ∃ a, i = .lds a ∧ t = { s with sample := a, status := Flags.sampleLoaded s.status }) ∨
      (s.err = false ∧ s.sv = false ∧ i.isConversion = true ∧ t = raise .noSample s) ∨
      (s.err = false ∧ s.sv = true ∧ ∃ f, conversionOf i = some f ∧ t = latch (f s.traw s.hraw s.lut) s)) := by
  obtain ⟨a, hi, -, he⟩ | ⟨f, hf, hc, he⟩ := exec_shape i
  · rw [he] at h
    obtain ⟨hw, h | ⟨hr, h⟩⟩ := loadSample_next h
    · exact ⟨hw, .inl h⟩
    · exact ⟨hw, .inr (.inl ⟨hr, a, hi, h⟩)⟩
  · rw [he] at h
    obtain ⟨hw, h | ⟨hr, hv, h⟩ | ⟨hr, hv, h⟩⟩ := convert_next h
    · exact ⟨hw, .inl h⟩
    · exact ⟨hw, .inr (.inr (.inl ⟨hr, hv, hc, h⟩))⟩
    · exact ⟨hw, .inr (.inr (.inr ⟨hr, hv, f, hf, h⟩))⟩

/-! ## Steps -/

/-- A step with nothing pending. -/
theorem step_of_empty {s : State} (h : s.port = []) : step s = idle s := by
  simp [step, takeAction, h]

/-- A step takes the oldest action off the port and performs it. -/
theorem step_of_pending {s : State} {a : HostAction} {rest : List HostAction} (h : s.port = a :: rest) :
    step s = perform exec a { s with port := rest } := by
  simp [step, takeAction, h]

/-- A step that takes a reset (R112). -/
theorem step_of_reset {s : State} {rest : List HostAction} (hw : LutWF s.lut) (h : s.port = .reset :: rest) :
    step s = .next (clearedByReset { s with port := rest }) := by
  rw [step_of_pending h]
  exact whenConfigured_of_wf _ hw

/-- A pending word that is illegal. -/
theorem perform_illegal {run : Instr → State → Out} {w : CmdWord} {y : Illegal} (s : State)
    (h : decode w = .illegal y) : perform run (.issue w) s = rejectWord s := by
  simp [perform, h]

/-- A pending word that is a command. -/
theorem perform_command {run : Instr → State → Out} {w : CmdWord} {i : Instr} (s : State)
    (h : decode w = .command i) : perform run (.issue w) s = run i s := by
  simp [perform, h]

/-- Everything a step can do: idle, a reset, an illegal word, a command. -/
theorem step_next {s t : State} (h : step s = .next t) :
    (s.port = [] ∧ LutWF s.lut ∧ t = s) ∨
    (∃ rest, s.port = .reset :: rest ∧ hostReset { s with port := rest } = .next t) ∨
    (∃ w rest y, s.port = .issue w :: rest ∧ decode w = .illegal y ∧ rejectWord { s with port := rest } = .next t) ∨
    (∃ w rest i, s.port = .issue w :: rest ∧ decode w = .command i ∧ exec i { s with port := rest } = .next t) := by
  cases hp : s.port with
  | nil =>
    rw [step_of_empty hp] at h
    exact .inl ⟨rfl, idle_next h⟩
  | cons a rest =>
    rw [step_of_pending hp] at h
    cases a with
    | reset => exact .inr (.inl ⟨rest, rfl, h⟩)
    | issue w =>
      cases hd : decode w with
      | illegal y =>
        rw [perform_illegal _ hd] at h
        exact .inr (.inr (.inl ⟨w, rest, y, rfl, hd, h⟩))
      | command i =>
        rw [perform_command _ hd] at h
        exact .inr (.inr (.inr ⟨w, rest, i, rfl, hd, h⟩))

end Sys2Proof.Machine
end

