-- ==== Sys2Proof/Laws/PerInstr.lean ====
section
/-! SUPPORT. One lemma per command: the fields of its word (spec/30_encoding.md R44, R48). -/

namespace Sys2Proof.Laws.WordFields

/-- The word of `i` holds its opcode in OP and its argument in ARG. -/
def Statement (i : Instr) : Prop := opField (encode i) = i.opcode ∧ argField (encode i) = i.argument

theorem tc : Statement .tc := by unfold Statement; decide
theorem tcq : Statement .tcq := by unfold Statement; decide
theorem tf : Statement .tf := by unfold Statement; decide
theorem tfq : Statement .tfq := by unfold Statement; decide
theorem rh : Statement .rh := by unfold Statement; decide
theorem rhq : Statement .rhq := by unfold Statement; decide
theorem dc : Statement .dc := by unfold Statement; decide
theorem dcq : Statement .dcq := by unfold Statement; decide
theorem df : Statement .df := by unfold Statement; decide
theorem dfq : Statement .dfq := by unfold Statement; decide
theorem lds (arg : Word32) : Statement (.lds arg) :=
  ⟨BitVec.extractLsb'_append_eq_left, BitVec.extractLsb'_append_eq_right⟩
theorem lnh : Statement .lnh := by unfold Statement; decide

end Sys2Proof.Laws.WordFields
end

