-- ==== Sys2Proof/Laws/Run.lean ====
section
/-! SUPPORT. Runs of steps and runs of the host, one action at a time. -/

namespace Sys2Proof.Machine

/-- No steps. -/
theorem core_run_zero (s : State) : Host.Core.run core 0 s = .next s := rfl

/-- In any machine, a step that answers a next state, and the rest of the run. -/
theorem run_of_next {M : Host.Core} {s t : M.State} (h : M.step s = .next t) (n : Nat) :
    M.run (n + 1) s = M.run n t := by
  simp only [Host.Core.run, h]

/-- In any machine, a run that begins with a refused step is refused. -/
theorem run_of_refused {M : Host.Core} {s : M.State} {r : M.Refusal} (h : M.step s = .refused r) (n : Nat) :
    M.run (n + 1) s = .refused r := by
  simp only [Host.Core.run, h]

/-- A step that answers a next state, and the rest of the run. -/
theorem core_run_of_next {s t : State} (h : step s = .next t) (n : Nat) :
    Host.Core.run core (n + 1) s = Host.Core.run core n t :=
  run_of_next (M := core) h n

/-- A run of n + 1 steps that ends in a next state began with a step that did. -/
theorem core_run_succ_next {s t : State} {n : Nat} (h : Host.Core.run core (n + 1) s = .next t) :
    ∃ u, step s = .next u ∧ Host.Core.run core n u = .next t := by
  cases hs : step s with
  | next u => exact ⟨u, rfl, by rw [← core_run_of_next hs]; exact h⟩
  | fault r => cases r
  | refused r =>
    have hr : Host.Core.run core (n + 1) s = .refused r := run_of_refused (M := core) hs n
    rw [hr] at h
    cases h

/-- The run with no action left (R120). -/
@[simp] theorem hostRun_nil (s : State) : hostRun [] s = .next s := rfl

/-- A halted engine ends the run (R120). -/
theorem hostRun_of_halted {s : State} (h : s.err = true) (acts : List HostAction) : hostRun acts s = .next s := by
  cases acts <;> simp [hostRun, h]

/-- A running engine takes the first action. -/
theorem hostRun_of_next {s t : State} {a : HostAction} (he : s.err = false) (h : step { s with port := [a] } = .next t)
    (acts : List HostAction) : hostRun (a :: acts) s = hostRun acts t := by
  simp [hostRun, he, h]

end Sys2Proof.Machine
end

