-- ==== Sys2Proof/Tests/Slice0.lean ====
section
/-! SUPPORT. Tests: every expected number is the spec's own (spec/95_test_vectors.md, or the rule named); and a witness for the hypotheses of each statement. -/

namespace Sys2Proof.Tests

set_option Elab.async false

open Sys2Proof.Machine Sys2Proof.Claims

/-! ## States and observations -/

/-- An engine with LUT_REF that holds the sample (t, h) and has converted nothing. -/
def loaded (t h : Nat) : State :=
  { State.reset with sample := BitVec.ofNat 16 t ++ BitVec.ofNat 16 h, status := 0b000001#6 }

/-- The same, with the host's actions pending. -/
def pending (s : State) (acts : List HostAction) : State := { s with port := acts }

/-- A halted engine: NoSample was raised (95 section 2.6, F7). -/
def halted : State := { State.reset with status := 0b101000#6 }

/-- RESULT as a number and STATUS, after an outcome that is a next state. -/
def seen : Out → Option (Int × StatusWord)
  | .next t => some (t.result.toInt, t.status)
  | .fault _ => none
  | .refused _ => none

/-- SAMPLE and STATUS after. -/
def seenSample : Out → Option (Word32 × StatusWord)
  | .next t => some (t.sample, t.status)
  | .fault _ => none
  | .refused _ => none

/-- Is the outcome a next state? -/
def isNext : Out → Bool
  | .next _ => true
  | .fault _ => false
  | .refused _ => false

theorem exists_next {o : Out} (h : isNext o = true) : ∃ t, o = .next t := by
  cases o with
  | next t => exact ⟨t, rfl⟩
  | fault r => cases h
  | refused r => cases h

theorem lutRef_wf : LutWF lutRef := by decide +kernel

theorem loaded_ready (t h : Nat) : Ready (loaded t h) :=
  ⟨⟨lutRef_wf, by show Flags.err 1#6 = false; decide⟩, by show Flags.sv 1#6 = true; decide⟩

theorem reset_accepting : Accepting State.reset := ⟨lutRef_wf, by decide⟩

theorem pending_accepting {s : State} (h : Accepting s) (acts : List HostAction) : Accepting (pending s acts) := h

/-! ## Well-formedness: an ill-formed term for each check -/

/-- W1: 100 entries. -/
theorem smoke_w1 : ¬ LutW1 lutRef.dropLast := by decide +kernel
/-- W2: two equal operands. -/
theorem smoke_w2 : ¬ LutW2 [⟨0, 0⟩, ⟨655, 0⟩, ⟨655, 0⟩] := by decide
/-- W3: entry 0's operand is not 0. -/
theorem smoke_w3 : ¬ LutW3 [⟨1, 0⟩] := by decide
/-- W4: a value falls from entry 1 to entry 2. -/
theorem smoke_w4 : ¬ LutW4 [⟨0, 0⟩, ⟨655, BitVec.ofInt 32 (-1)⟩, ⟨1310, BitVec.ofInt 32 (-2)⟩] := by decide
/-- W5: a positive selectable value. -/
theorem smoke_w5 : ¬ LutW5 [⟨0, 0⟩, ⟨655, 1⟩] := by decide
/-- W4 and W5 do not bind entry 0 (91 N5). -/
theorem smoke_entry0_free : LutW4 [⟨0, 7⟩, ⟨655, BitVec.ofInt 32 (-1)⟩] ∧ LutW5 [⟨0, 7⟩, ⟨655, BitVec.ofInt 32 (-1)⟩] := by
  decide
/-- LUT_REF leaves a gap above its last operand (R18). -/
theorem test_lutRef_gap : LutGap lutRef := by decide +kernel
/-- The bounds of the pseudo-commands (R53). -/
theorem smoke_asm : asmWf (.lds2 65536 0) = false ∧ asmWf (.lds2 0 65536) = false ∧ asmWf (.ldb 256 0 0 0) = false ∧
    asmWf (.ldb 0 0 0 256) = false ∧ asmWf (.lds2 65535 65535) = true := by decide

/-! ## The table (R18): rows of the listing -/

theorem test_lutRef_rows : lutRef[0]? = some ⟨0#16, 0x80000000#32⟩ ∧ lutRef[1]? = some ⟨655#16, 0xFFFB6514#32⟩ ∧
    lutRef[50]? = some ⟨32750#16, 0xFFFF4E8E#32⟩ ∧ lutRef[99]? = some ⟨64845#16, 0xFFFFFD6D#32⟩ ∧
    lutRef[100]? = some ⟨65500#16, 0#32⟩ := by decide +kernel

/-! ## Decoding: words written out from R46 (95 section 2.1) -/

theorem test_decode_temperature : decode 0b000000000000000000000000000000000000#36 = .command .tc ∧
    decode 0b000100000000000000000000000000000000#36 = .command .tcq ∧
    decode 0b001000000000000000000000000000000000#36 = .command .tf ∧
    decode 0b001100000000000000000000000000000000#36 = .command .tfq := by decide
theorem test_decode_humidity : decode 0b010000000000000000000000000000000000#36 = .command .rh ∧
    decode 0b010100000000000000000000000000000000#36 = .command .rhq := by decide
theorem test_decode_dew : decode 0b100000000000000000000000000000000000#36 = .command .dc ∧
    decode 0b100100000000000000000000000000000000#36 = .command .dcq ∧
    decode 0b101000000000000000000000000000000000#36 = .command .df ∧
    decode 0b101100000000000000000000000000000000#36 = .command .dfq := by decide
theorem test_decode_family3 : decode 0b110000111111111111111000000000000000#36 = .command (.lds 0x3FFF8000#32) ∧
    decode 0xCFFFFFFFF#36 = .command (.lds 0xFFFFFFFF#32) ∧
    decode 0b110100000000000000000000000000000000#36 = .command .lnh := by decide
theorem test_decode_illegal : decode 0x600000000#36 = .illegal .reservedOpcode ∧ decode 0xF00000000#36 = .illegal .reservedOpcode ∧
    decode 0x000000001#36 = .illegal .nonzeroArg ∧ decode 0xD80000000#36 = .illegal .nonzeroArg := by decide
theorem test_encode : encode (.lds 0x12345678#32) = 0xC12345678#36 ∧ encode .df = 0xA00000000#36 := by decide
theorem test_table_word : decodeTableWord 40 0x300000000 = some .tfq ∧ decodeTableWord 40 0xC64D97FEE = some (.lds 0x64D97FEE#32) ∧
    decodeTableWord 40 0x700000000 = none ∧ decodeTableWord 40 0x1000000000 = none := by decide

/-! ## sdiv (R10) and the lookup (95 section 2.4) -/

theorem test_sdiv : sdiv 7 2 = 3 ∧ sdiv (-7) 2 = -3 ∧ sdiv 7 (-2) = -3 ∧ sdiv (-7) (-2) = 3 ∧ sdiv (-1) 65536 = 0 := by decide
/-- R92's example and its two corner values, in 64-bit words. -/
theorem test_word_chain : (dewWord64 25817#16 (BitVec.ofInt 32 (-45426))).toInt = 908140 ∧ (dewWord64 65535#16 0#32).toInt = 8191804 ∧
    (dewWord64 0#16 (BitVec.ofInt 32 (-301804))).toInt = -5005583 := by decide +kernel
theorem test_whole : whole (-1) = 0 ∧ whole (-65535) = 0 ∧ whole (-65536) = -1 ∧ whole (-65537) = -1 := by decide
theorem test_lookup : lookup lutRef 0#16 = .miss ∧ lookup lutRef 1#16 = .hit 1 ∧ lookup lutRef 655#16 = .hit 1 ∧
    lookup lutRef 656#16 = .hit 2 ∧ lookup lutRef 32750#16 = .hit 50 ∧ lookup lutRef 32751#16 = .hit 51 ∧
    lookup lutRef 65500#16 = .hit 100 ∧ lookup lutRef 65501#16 = .miss := by decide +kernel

/-! ## Commands (95 sections 2.2 to 2.5) -/

theorem test_lds : seenSample (exec (.lds 0x12345678#32) State.reset) = some (0x12345678#32, 0b000001#6) := by decide +kernel
theorem test_lds_fields : (loaded 4660 22136).sample = 0x12345678#32 ∧ (loaded 4660 22136).traw = 0x1234#16 ∧
    (loaded 4660 22136).hraw = 0x5678#16 := by decide
theorem test_tcq : seen (exec .tcq (loaded 15887 0)) = some (-85, 0b000011#6) := by decide +kernel
theorem test_tc_truncates : seen (exec .tc (loaded 1 0)) = some (-39, 0b000011#6) := by decide +kernel
theorem test_tc_upper : seen (exec .tc (loaded 65535 0)) = some (124, 0b000011#6) := by decide +kernel
theorem test_tfq : seen (exec .tfq (loaded 65535 0)) = some (16842455, 0b000011#6) := by decide +kernel
theorem test_tf : seen (exec .tf (loaded 397 0)) = some (-38, 0b000011#6) := by decide +kernel
theorem test_rhq_zero_is_no_miss : seen (exec .rhq (loaded 0 0)) = some (0, 0b000011#6) := by decide +kernel
theorem test_rh : seen (exec .rh (loaded 0 65535)) = some (99, 0b000011#6) := by decide +kernel
theorem test_lnh_hit : seen (exec .lnh (loaded 0 32768)) = some (-44128, 0b000011#6) := by decide +kernel
theorem test_lnh_miss : seen (exec .lnh (loaded 0 65501)) = some (0, 0b000111#6) := by decide +kernel
theorem test_dcq : seen (exec .dcq (loaded 25817 32750)) = some (908140, 0b000011#6) := by decide +kernel
theorem test_dcq_truncates : seen (exec .dcq (loaded 0 1)) = some (-5005583, 0b000011#6) := by decide +kernel
theorem test_dc_computed_zero : seen (exec .dc (loaded 19410 32750)) = some (0, 0b000011#6) := by decide +kernel
theorem test_dc_sentinel : seen (exec .dc (loaded 25817 65501)) = some (0, 0b000111#6) := by decide +kernel
theorem test_dfq : seen (exec .dfq (loaded 0 1)) = some (-6912897, 0b000011#6) := by decide +kernel
theorem test_dfq_sentinel : seen (exec .dfq (loaded 65535 65535)) = some (0, 0b000111#6) := by decide +kernel
theorem test_df : seen (exec .df (loaded 0 1)) = some (-105, 0b000011#6) := by decide +kernel
theorem test_df_upper : seen (exec .df (loaded 65535 65500)) = some (256, 0b000011#6) := by decide +kernel

/-! ## Faults, halt, reset (95 section 2.6) -/

theorem test_f1 : seen (step (pending State.reset [.issue 0x000000000#36])) = some (0, 0b101000#6) := by decide +kernel
theorem test_f3 : seen (step (pending State.reset [.issue 0x000000001#36])) = some (0, 0b011000#6) := by decide +kernel
theorem test_f6 : seen (step { loaded 0 0 with status := 0b000111#6, port := [.issue 0x400000001#36] }) = some (0, 0b011111#6) := by
  decide +kernel
theorem test_f7 : seenSample (step (pending halted [.issue 0xC3FFF8000#36])) = some (0#32, 0b101000#6) := by decide +kernel
theorem test_f8 : seen (step (pending halted [.issue 0x600000000#36])) = some (0, 0b101000#6) := by decide +kernel
/-- F9, on the field the rule fixes. -/
theorem test_f9 : (clearedByReset halted).status = 0b000000#6 := by decide
theorem test_f10 : seen (step (pending (loaded 0 0) [.issue 0x900000000#36])) = some (0, 0b000111#6) := by decide +kernel
theorem test_f11 : seen (exec .tc { loaded 0 0 with status := 0b000111#6 }) = some (-40, 0b000011#6) := by decide +kernel
theorem test_ports : State.reset.resultPort = none ∧ State.resultPort { loaded 0 0 with status := 0b000011#6 } = some 0#32 := by decide
theorem test_fetch_word : seenSample (step (State.reset.withFetchWord 40 0xC3FFF8000)) = some (0x3FFF8000#32, 0b000001#6) := by
  decide +kernel

/-! ## Assembler (R52, R53) -/

theorem test_asm_word : assemble ['L', 'D', 'S', ' ', '0', 'x', '3', 'F', 'F', 'F', '8', '0', '0', '0'] = some 0xC3FFF8000#36 := by
  decide
theorem test_asm_comment : assemble ['D', 'C', 'Q', ' ', ';', ' ', 'd'] = some 0x900000000#36 := by decide
theorem test_word_text : wordText 0xC3FFF8000#36 = ['C', '3', 'F', 'F', 'F', '8', '0', '0', '0'] := by decide

/-! ## Witnesses: concrete states and operands that meet the hypotheses of each statement, one named theorem per statement -/

/-- The hypotheses of `CommandWord` for an OP: an engine without a sample, and a pending word of that OP with a nonzero ARG. -/
def CommandWordHypotheses (op : BitVec 4) (w : CmdWord) : Prop :=
  (Accepting State.reset ∧ State.reset.sv = false) ∧
  (Accepting (pending State.reset [.issue w]) ∧ opField w = op ∧ argField w ≠ 0#32 ∧
    (pending State.reset [.issue w]).port = .issue w :: [])

theorem commandWord_witness {op : BitVec 4} {w : CmdWord} (h : opField w = op ∧ argField w ≠ 0#32) : CommandWordHypotheses op w :=
  ⟨⟨reset_accepting, by decide⟩, pending_accepting reset_accepting _, h.1, h.2, rfl⟩

/-- The hypotheses of `LookupCommand`: hits in buckets 1, 50 and 100 at their edges, and both misses. -/
theorem lookup_witness :
    (Ready (loaded 0 1) ∧ (loaded 0 1).lut[0]? = some ⟨0#16, 0x80000000#32⟩ ∧ (loaded 0 1).lut[1]? = some ⟨655#16, 0xFFFB6514#32⟩ ∧
      0#16 < (loaded 0 1).hraw ∧ (loaded 0 1).hraw ≤ 655#16) ∧
    (Ready (loaded 0 65500) ∧ (loaded 0 65500).lut[99]? = some ⟨64845#16, 0xFFFFFD6D#32⟩ ∧
      (loaded 0 65500).lut[100]? = some ⟨65500#16, 0#32⟩ ∧ 64845#16 < (loaded 0 65500).hraw ∧ (loaded 0 65500).hraw ≤ 65500#16) ∧
    (Ready (loaded 0 0) ∧ Misses (loaded 0 0).lut (loaded 0 0).hraw) ∧
    (Ready (loaded 0 65501) ∧ Misses (loaded 0 65501).lut (loaded 0 65501).hraw) :=
  ⟨⟨loaded_ready _ _, by decide +kernel⟩, ⟨loaded_ready _ _, by decide +kernel⟩, ⟨loaded_ready _ _, .inl (by decide)⟩,
    ⟨loaded_ready _ _, .inr ⟨⟨65500#16, 0#32⟩, by decide +kernel, by decide⟩⟩⟩

/-- The rule's example: 25 degrees, 50 percent, LUT_REF. -/
theorem example_witness : Ready (loaded 25817 32750) ∧ (loaded 25817 32750).lut = lutRef ∧ (loaded 25817 32750).traw = 25817#16 ∧
    (loaded 25817 32750).hraw = 32750#16 := ⟨loaded_ready _ _, rfl, by decide, by decide⟩

/-- A pending word in an accepting engine without a sample: illegal, a conversion, LDS. -/
theorem pending_witness : ∀ w ∈ [0x600000000#36, 0x000000001#36, 0x000000000#36, 0xC00000000#36],
    Accepting (pending State.reset [.issue w]) ∧ (pending State.reset [.issue w]).port = .issue w :: [] :=
  fun _ _ => ⟨reset_accepting, rfl⟩

theorem witness_StepKeepsInv : MachineInv (pending (loaded 0 0) [.issue 0x900000000#36]) ∧
    ∃ t, step (pending (loaded 0 0) [.issue 0x900000000#36]) = .next t :=
  ⟨⟨lutRef_wf, by unfold StatusInv; decide⟩, exists_next (by decide +kernel)⟩

theorem witness_RunsKeepTheTable : ∃ t : State, Host.Core.run core 1 (pending (loaded 0 0) [.reset]) = .next t := by
  obtain ⟨t, ht⟩ := exists_next (o := step (pending (loaded 0 0) [.reset])) (by decide +kernel)
  exact ⟨t, core_run_of_next ht 0⟩

theorem witness_DecodeEncodeAgree : opField 0xCFFFFFFFF#36 = 0xC#4 ∧ (opField 0x6FFFFFFFF#36 ≠ 0xC#4 ∧ argField 0x6FFFFFFFF#36 ≠ 0#32) ∧
    (argField 0xD00000000#36 = 0#32 ∧ Instr.lnh ∈ conversionCommands ∧ opField 0xD00000000#36 = Instr.lnh.opcode) ∧
    (opField 0x600000000#36 ≠ 0xC#4 ∧ argField 0x600000000#36 = 0#32 ∧ ∀ i ∈ conversionCommands, opField 0x600000000#36 ≠ i.opcode) ∧
    decode 0xD00000000#36 = .command .lnh := by decide

theorem witness_OpcodeMapSelectsRows : ∃ r ∈ opcodeMap, 0xC3FFF8000#36 &&& r.mask = r.pattern := by decide

theorem witness_OpcodeSubfields : (familyCode .dfq ≠ 3#2) ∧
    (famField (opField 0x7FFFFFFFF#36) = 1#2 ∧ unitField (opField 0x7FFFFFFFF#36) = true) ∧
    (famField (opField 0xCFFFFFFFF#36) = 3#2 ∧ fnField (opField 0xCFFFFFFFF#36) = 0#2) ∧
    (famField (opField 0xD00000000#36) = 3#2 ∧ fnField (opField 0xD00000000#36) = 1#2 ∧ argField 0xD00000000#36 = 0#32) ∧
    (famField (opField 0xE00000000#36) = 3#2 ∧ fnField (opField 0xE00000000#36) = 2#2) ∧
    (famField (opField 0xFFFFFFFFF#36) = 3#2 ∧ fnField (opField 0xFFFFFFFFF#36) = 3#2) := by decide

theorem witness_StepRunsDecodedCommand : (pending State.reset [.issue 0xC00000000#36]).port = .issue 0xC00000000#36 :: [] ∧
    decode 0xC00000000#36 = .command (.lds 0#32) := by decide

theorem witness_CommandStepsInOrder :
    ((pending halted [.issue 0xC3FFF8000#36]).err = true ∧
      (∀ rest, (pending halted [.issue 0xC3FFF8000#36]).port ≠ .reset :: rest) ∧
      ∃ t, step (pending halted [.issue 0xC3FFF8000#36]) = .next t) ∧
    (∃ t, step (pending halted [.reset]) = .next t ∧ t.err = false ∧ t.cause = 0#2) ∧ halted.cause ≠ 0#2 ∧
    (LutWF lutRef ∧ (pending State.reset [.issue 0x600000000#36]).err = false ∧ ∃ y, decode 0x600000000#36 = .illegal y) ∧
    (decode 0x000000000#36 = .command .tc ∧ Instr.tc.isConversion = true ∧ (pending State.reset [.issue 0x000000000#36]).sv = false) ∧
    ((pending (loaded 0 0) [.issue 0x000000000#36]).err = false ∧ (pending (loaded 0 0) [.issue 0x000000000#36]).sv = true) ∧
    decode 0xC00000000#36 = .command (.lds 0#32) :=
  ⟨⟨by decide, by simp [pending], exists_next (by decide +kernel)⟩,
    ⟨clearedByReset (pending halted []), step_of_reset (s := pending halted [.reset]) lutRef_wf rfl, rfl, rfl⟩, by decide,
    ⟨lutRef_wf, by decide, ⟨_, rfl⟩⟩, by decide, by decide, by decide⟩

theorem witness_IdleHoldsRegisters : LutWF State.reset.lut ∧ State.reset.port = [] := ⟨lutRef_wf, rfl⟩

theorem witness_MalformedTableRefused : ¬ LutWF { State.reset with lut := lutRef.dropLast }.lut := fun h => smoke_w1 h.1

theorem witness_IllegalWordsRaise : Accepting (pending State.reset [.issue 0x6FFFFFFFF#36]) ∧ opField 0x6FFFFFFFF#36 = 0x6#4 ∧
    (opField 0xD80000000#36 ≠ 0xC#4 ∧ argField 0xD80000000#36 ≠ 0#32) ∧ opField 0xCFFFFFFFF#36 = 0xC#4 :=
  ⟨reset_accepting, by decide⟩

theorem witness_ConversionWithoutSampleRaises : Accepting State.reset ∧ State.reset.sv = false := ⟨reset_accepting, by decide⟩

theorem witness_IllegalBeforeNoSample : Accepting (pending State.reset [.issue 0x000000001#36]) ∧
    (pending State.reset [.issue 0x000000001#36]).sv = false ∧ decode 0x000000001#36 = .illegal .nonzeroArg ∧
    decode 0x000000000#36 = .command .tc ∧ Instr.tc ∈ conversionCommands := ⟨reset_accepting, by decide⟩

theorem witness_FaultEntryWritesErrAndCause : State.reset.err = false ∧ halted.err = true := by decide

theorem witness_HaltLastsUntilReset : (LutWF halted.lut ∧ (pending halted [.issue 0x000000000#36]).err = true ∧
      ∀ a ∈ (pending halted [.issue 0x000000000#36]).port, a ≠ .reset) ∧
    (∀ rest, (pending halted [.issue 0x000000000#36]).port ≠ .reset :: rest) ∧
    (pending halted [.issue 0x000000000#36]).port = .issue 0x000000000#36 :: [] ∧
    ∃ t, step (pending halted [.issue 0x000000000#36]) = .next t :=
  ⟨⟨lutRef_wf, by decide, by decide⟩, by simp [pending], rfl, exists_next (by decide +kernel)⟩

theorem witness_HostResetClearsStatus : (LutWF (pending halted [.reset]).lut ∧ (pending halted [.reset]).port = .reset :: []) ∧
    (∃ t, step (pending (loaded 0 0) [.issue 0x000000001#36]) = .next t) ∧
    (∀ rest, (pending (loaded 0 0) [.issue 0x000000001#36]).port ≠ .reset :: rest) ∧ halted.err = true ∧ halted.cause ≠ 0#2 ∧
    (loaded 0 0).sv = true :=
  ⟨⟨lutRef_wf, rfl⟩, exists_next (by decide +kernel), by simp [pending], by decide, by decide, by decide⟩

theorem witness_LdsLoadsSample : Accepting State.reset ∧ halted.err = true ∧ ∃ t, exec (.lds 0#32) halted = .next t :=
  ⟨reset_accepting, by decide, exists_next (by decide +kernel)⟩

theorem witness_SampleFrameIsBigEndian : Accepting State.reset := reset_accepting

theorem witness_LdsKeepsPreviousResult : Accepting { loaded 0 0 with result := 34#32, status := 0b000111#6 } ∧
    State.rv { loaded 0 0 with result := 34#32, status := 0b000111#6 } = true ∧
    (loaded 0 0).port = [] ∧ ∃ u, step (loaded 0 0) = .next u :=
  ⟨⟨lutRef_wf, by decide⟩, by decide, rfl, exists_next (by decide +kernel)⟩

theorem witness_ConversionAfterLoadSeesNewSample : Accepting State.reset ∧ Ready (loaded 25817 32750) ∧
    (loaded 25817 32750).sample = 0x64D97FEE#32 ∧ (loaded 25817 32750).lut = State.reset.lut :=
  ⟨reset_accepting, loaded_ready _ _, by decide, rfl⟩

theorem witness_TcqComputesCelsiusQ16 : CommandWordHypotheses 0x1#4 0x100000001#36 ∧ Ready (loaded 0 0) :=
  ⟨commandWord_witness (by decide), loaded_ready _ _⟩
theorem witness_TcComputesCelsiusWhole : CommandWordHypotheses 0x0#4 0x080000000#36 ∧ Ready (loaded 65535 0) ∧
    (15491 ≤ 16284 ∧ 16284 ≤ 16284) := ⟨commandWord_witness (by decide), loaded_ready _ _, by decide⟩
theorem witness_TfqComputesFahrenheitQ16 : CommandWordHypotheses 0x3#4 0x300000001#36 ∧ Ready (loaded 0 0) ∧
    Instr.dfq ∈ conversionCommands ∧ Instr.dfq ≠ .lnh := ⟨commandWord_witness (by decide), loaded_ready _ _, by decide, by decide⟩
theorem witness_TfComputesFahrenheitWhole : CommandWordHypotheses 0x2#4 0x200000001#36 ∧ Ready (loaded 65535 0) :=
  ⟨commandWord_witness (by decide), loaded_ready _ _⟩
theorem witness_TemperatureCommandsMonotone : Ready (loaded 0 0) ∧ Ready (loaded 1 0) ∧ (loaded 0 0).traw < (loaded 1 0).traw ∧
    (loaded 0 0).traw ≤ (loaded 1 0).traw := ⟨loaded_ready _ _, loaded_ready _ _, by decide, by decide⟩
theorem witness_FahrenheitAgreesWithExactCelsius : (-3 : Int) ≤ -3 ∧ (-3 : Int) ≤ 2 ∧ (-3 : Int) ≤ 2 ∧ (2 : Int) ≤ 2 := by decide
theorem witness_RhqComputesHumidityQ16 : CommandWordHypotheses 0x5#4 0x5FFFFFFFF#36 ∧ Ready (loaded 0 65535) :=
  ⟨commandWord_witness (by decide), loaded_ready _ _⟩
theorem witness_RhComputesHumidityWhole : CommandWordHypotheses 0x4#4 0x400000001#36 ∧ Ready (loaded 0 0) :=
  ⟨commandWord_witness (by decide), loaded_ready _ _⟩
theorem witness_HumidityRanges : Ready (loaded 0 0) ∧ Ready (loaded 0 65535) ∧ (loaded 0 0).hraw < (loaded 0 65535).hraw ∧
    (loaded 0 0).hraw ≤ (loaded 0 65535).hraw := ⟨loaded_ready _ _, loaded_ready _ _, by decide, by decide⟩

/-- Bucket 50 of LUT_REF holds 32096 to 32750. -/
theorem bucket50 (h : U16) (h1 : 32095#16 < h) (h2 : h ≤ 32750#16) : InBucket lutRef h 50 :=
  ⟨by decide, by decide, ⟨32095#16, 0xFFFF4962#32⟩, ⟨32750#16, 0xFFFF4E8E#32⟩, by decide +kernel, by decide +kernel, h1, h2⟩

theorem witness_LookupSelectsBucket : LutWF lutRef ∧ InBucket lutRef 32750#16 50 ∧ lookup lutRef 32750#16 = .hit 50 ∧
    lutRef[100]? = some ⟨65500#16, 0#32⟩ ∧ lutRef[0]? = some ⟨0#16, 0x80000000#32⟩ :=
  ⟨lutRef_wf, bucket50 _ (by decide) (by decide), by decide +kernel⟩
theorem witness_BucketsPartitionTheRange : LutWF lutRef ∧ InBucket lutRef 32750#16 50 :=
  ⟨lutRef_wf, bucket50 _ (by decide) (by decide)⟩
theorem witness_LookupMissCases : LutWF lutRef ∧ lutRef[0]? = some ⟨0#16, 0x80000000#32⟩ ∧
    lutRef[100]? = some ⟨65500#16, 0#32⟩ := ⟨lutRef_wf, by decide +kernel⟩
theorem witness_SentinelEntryNeverRead : lookup lutRef 1#16 = .hit 1 ∧ LutWF (loaded 0 1).lut ∧ ∃ t, exec .dcq (loaded 0 1) = .next t :=
  ⟨by decide +kernel, lutRef_wf, exists_next (by decide +kernel)⟩
theorem witness_LookupMonotone : LutWF lutRef ∧ 1#16 ≤ 65500#16 ∧ lookup lutRef 1#16 = .hit 1 ∧ lookup lutRef 65500#16 = .hit 100 :=
  ⟨lutRef_wf, by decide +kernel⟩
theorem witness_LutRefLookupClosedForm : (1 ≤ (1#16).toNat ∧ (65500#16).toNat ≤ 65500) ∧ 65501 ≤ (65501#16).toNat := by decide
theorem witness_LnhReturnsTableValue : CommandWordHypotheses 0xD#4 0xD80000000#36 ∧
    (Ready (loaded 0 1) ∧ (loaded 0 1).hraw = 1#16 ∧ (loaded 0 1).lut[1]? = some ⟨655#16, 0xFFFB6514#32⟩) ∧
    (Ready (loaded 0 65500) ∧ (loaded 0 65500).lut[100]? = some ⟨65500#16, 0#32⟩ ∧ (loaded 0 65500).hraw = 65500#16) ∧
    (Ready (loaded 0 65501) ∧ (65500#16).toNat < 65535 ∧ (loaded 0 65501).hraw = 65500#16 + 1#16) ∧
    (Ready (loaded 0 32768) ∧ (loaded 0 32768).lut = lutRef ∧ (loaded 0 32768).hraw = 32768#16) ∧
    (Ready (loaded 0 32750) ∧ (loaded 0 32750).lut = lutRef ∧ (loaded 0 32750).hraw = 32750#16) :=
  ⟨commandWord_witness (by decide), ⟨loaded_ready _ _, by decide +kernel⟩, ⟨loaded_ready _ _, by decide +kernel⟩,
    ⟨loaded_ready _ _, by decide⟩, ⟨loaded_ready _ _, rfl, by decide⟩, ⟨loaded_ready _ _, rfl, by decide⟩⟩

theorem witness_DcqComputesDewPointQ16 : CommandWordHypotheses 0x9#4 0x900000001#36 ∧ Ready (loaded 25817 32750) :=
  ⟨commandWord_witness (by decide), example_witness.1⟩
theorem witness_DcComputesDewPointWhole : CommandWordHypotheses 0x8#4 0x800000001#36 ∧ Ready (loaded 25817 32750) ∧
    (-65535 : Int) ≤ 65535 := ⟨commandWord_witness (by decide), example_witness.1, by decide⟩
theorem witness_DfqComputesDewPointFahrenheitQ16 : CommandWordHypotheses 0xB#4 0xB00000001#36 ∧ Ready (loaded 25817 32750) :=
  ⟨commandWord_witness (by decide), example_witness.1⟩
theorem witness_DfComputesDewPointFahrenheitWhole : CommandWordHypotheses 0xA#4 0xA00000001#36 ∧ Ready (loaded 25817 32750) :=
  ⟨commandWord_witness (by decide), example_witness.1⟩
theorem witness_MissIsResultNotFault : Ready (loaded 0 0) ∧ Misses (loaded 0 0).lut (loaded 0 0).hraw := lookup_witness.2.2.1
theorem witness_DewChainIsPrintedFormula : (-2147483648 : Int) ≤ 0 ∧ (0 : Int) ≤ 0 := by decide
theorem witness_DewDivisorsArePositive : LutWF lutRef ∧ lookup lutRef 65500#16 = .hit 100 ∧
    Config.dewB - dewG (tempQ16 65535#16) 762773 ≤ 0 := ⟨lutRef_wf, by decide +kernel⟩
theorem witness_DewPointRanges : LutWF lutRef ∧ lookup lutRef 1#16 = .hit 1 := ⟨lutRef_wf, by decide +kernel⟩
theorem witness_DewPointMonotone : Ready (loaded 0 1) ∧ Ready (loaded 65535 65500) ∧ (loaded 0 1).lut = (loaded 65535 65500).lut ∧
    (loaded 0 1).traw ≤ (loaded 65535 65500).traw ∧ (loaded 0 1).hraw ≤ (loaded 65535 65500).hraw ∧
    ¬ Misses (loaded 0 1).lut (loaded 0 1).hraw ∧ ¬ Misses (loaded 65535 65500).lut (loaded 65535 65500).hraw := by
  have h100 : lutRef[100]? = some ⟨65500#16, 0#32⟩ := by decide +kernel
  have no : ∀ h : U16, h ≠ 0 → h ≤ 65500#16 → ¬ Misses lutRef h := by
    rintro h h0 h1 (h2 | ⟨e, he, h2⟩)
    · exact h0 h2
    · rw [h100] at he
      cases he
      exact absurd h1 (BitVec.not_le.mpr h2)
  exact ⟨loaded_ready _ _, loaded_ready _ _, rfl, by decide, by decide, no _ (by decide) (by decide), no _ (by decide) (by decide)⟩
theorem witness_WordChainEqualsIntegerChain : (0#32).toInt ≤ 0 ∧ (0x80000000#32).toInt ≤ 0 ∧ Ready (loaded 0 32750) ∧
    lookup (loaded 0 32750).lut (loaded 0 32750).hraw = .hit 50 :=
  ⟨by decide, by decide, loaded_ready _ _, by decide +kernel⟩
theorem witness_SameBucketSameDewPoint : Ready (loaded 7 32096) ∧ Ready (loaded 7 32750) ∧ (loaded 7 32096).lut = (loaded 7 32750).lut ∧
    (loaded 7 32096).traw = (loaded 7 32750).traw ∧ InBucket (loaded 7 32096).lut (loaded 7 32096).hraw 50 ∧
    InBucket (loaded 7 32096).lut (loaded 7 32750).hraw 50 :=
  ⟨loaded_ready _ _, loaded_ready _ _, rfl, by decide, bucket50 _ (by decide) (by decide), bucket50 _ (by decide) (by decide)⟩
theorem witness_ConversionsArePure : Ready (loaded 25817 32750) ∧ Instr.dcq ∈ conversionCommands := ⟨loaded_ready _ _, by decide⟩
theorem witness_MissFlagRule : Ready (loaded 0 0) ∧ Accepting State.reset ∧ (Accepting (pending State.reset [.issue 0x600000000#36]) ∧
      (pending State.reset [.issue 0x600000000#36]).port = .issue 0x600000000#36 :: [] ∧ (∃ y, decode 0x600000000#36 = .illegal y) ∧
      State.reset.sv = false) ∧
    (halted.err = true ∧ ∃ t, step (pending halted [.issue 0x000000000#36]) = .next t) ∧
    (∃ t, exec .lnh (loaded 0 0) = .next t) ∧ Instr.lnh.isConversion = true :=
  ⟨loaded_ready _ _, reset_accepting, ⟨reset_accepting, rfl, ⟨_, rfl⟩, by decide⟩,
    ⟨by decide, exists_next (by decide +kernel)⟩, exists_next (by decide +kernel), rfl⟩
theorem witness_ConversionsReadOnlyTheirOperands : Ready (loaded 7 1) ∧ Ready (loaded 7 2) ∧ Ready (loaded 8 1) ∧
    (loaded 7 1).traw = (loaded 7 2).traw ∧ (loaded 7 1).hraw = (loaded 8 1).hraw ∧ (loaded 7 1).lut = (loaded 8 1).lut :=
  ⟨loaded_ready _ _, loaded_ready _ _, loaded_ready _ _, by decide, by decide, rfl⟩
theorem witness_WholeCommandsTruncateQ16 : Ready (loaded 0 1) ∧ Ready (loaded 0 0) ∧ Misses (loaded 0 0).lut (loaded 0 0).hraw ∧
    ¬ Misses (loaded 0 1).lut (loaded 0 1).hraw :=
  ⟨loaded_ready _ _, loaded_ready _ _, lookup_witness.2.2.1.2, witness_DewPointMonotone.2.2.2.2.2.1⟩
theorem witness_HostRunsEndInLegalStates : MachineInv (loaded 0 0) := ⟨lutRef_wf, by unfold StatusInv; decide⟩
theorem witness_SuccessfulRunsAreSteps : LutWF (loaded 0 0).lut ∧ hostRun [] (loaded 0 0) = .next (loaded 0 0) ∧
    (loaded 0 0).err = false ∧ ∃ t, hostRun [.issue 0x000000000#36] (loaded 0 0) = .next t :=
  ⟨lutRef_wf, rfl, by decide, exists_next (by decide +kernel)⟩
theorem witness_PseudoCommandsExpandToLds : Accepting State.reset ∧ (65535 ≤ 65535 ∧ 0 ≤ 65535) ∧ (65535 < 65536 ∧ 255 < 256) :=
  ⟨reset_accepting, by decide, by decide⟩

end Sys2Proof.Tests
end

/-! # The state family (spec/10_state.md): conversions are pure (R24), and who writes MISS (R23) -/

namespace Sys2Proof.Machine

open Sys2Proof.Claims

/-! ## What a conversion latches in MISS -/

/-- A conversion through the lookup misses exactly when the lookup does. -/
theorem throughLookup_flag (g : U16 → Word32 → Word32) (t h : U16) (lut : List LutEntry) :
    (throughLookup g t h lut).miss = decide (lookup lut h = .miss) := by
  cases hl : lookup lut h with
  | hit k => simp [throughLookup_hit hl]
  | miss => simp [throughLookup_miss hl]

/-- A conversion through the lookup that misses has the value 0 (R91). -/
theorem throughLookup_value_of_miss {g : U16 → Word32 → Word32} {t h : U16} {lut : List LutEntry}
    (hm : (throughLookup g t h lut).miss = true) : (throughLookup g t h lut).value = 0#32 := by
  rw [throughLookup_flag, decide_eq_true_iff] at hm
  rw [throughLookup_miss hm]

/-- The conversions that use the lookup are those that go through it; the others never miss (R23). -/
theorem conversionOf_shape {i : Instr} {f : U16 → U16 → List LutEntry → Conversion} (hf : conversionOf i = some f) :
    (i.usesLookup = true ∧ ∃ g, f = throughLookup g) ∨
    (i.usesLookup = false ∧ ∀ t h lut, (f t h lut).miss = false) := by
  cases i <;> cases hf
  case dc | dcq | df | dfq | lnh => exact .inl ⟨rfl, _, rfl⟩
  case tc | tcq | tf | tfq | rh | rhq => exact .inr ⟨rfl, fun _ _ _ => rfl⟩

/-- The MISS flag of a conversion is a function of HRAW and the table: the command looks the table up and the lookup misses. -/
theorem conversionOf_flag {i : Instr} {f : U16 → U16 → List LutEntry → Conversion} (hf : conversionOf i = some f)
    (t h : U16) (lut : List LutEntry) : (f t h lut).miss = (i.usesLookup && decide (lookup lut h = .miss)) := by
  obtain ⟨hu, g, rfl⟩ | ⟨hu, hm⟩ := conversionOf_shape hf
  · rw [hu, throughLookup_flag, Bool.true_and]
  · rw [hu, hm, Bool.false_and]

/-- A conversion that misses has the value 0. -/
theorem conversionOf_value_of_miss {i : Instr} {f : U16 → U16 → List LutEntry → Conversion}
    (hf : conversionOf i = some f) {t h : U16} {lut : List LutEntry} (hm : (f t h lut).miss = true) :
    (f t h lut).value = 0#32 := by
  obtain ⟨-, g, rfl⟩ | ⟨-, hn⟩ := conversionOf_shape hf
  · exact throughLookup_value_of_miss hm
  · rw [hn] at hm; cases hm

/-! ## Conversions in a ready engine -/

/-- A completed conversion leaves the engine ready. -/
theorem ready_latch {s : State} (c : Conversion) (hr : Ready s) : Ready (latch c s) := by
  simpa [Ready, Accepting] using hr

/-- A conversion command in a ready engine latches its function of the sample and the table. -/
theorem exec_eq_latch {i : Instr} {f : U16 → U16 → List LutEntry → Conversion} (hf : conversionOf i = some f)
    {s : State} (hr : Ready s) : exec i s = .next (latch (f s.traw s.hraw s.lut) s) := by
  obtain ⟨⟨hw, he⟩, hv⟩ := hr
  exact exec_of_ready hf hw he hv

/-- The same conversion again, with no LDS between, answers the same state (R24). -/
theorem exec_latch_eq {i : Instr} {f : U16 → U16 → List LutEntry → Conversion} (hf : conversionOf i = some f)
    {s : State} (hr : Ready s) :
    exec i (latch (f s.traw s.hraw s.lut) s) = .next (latch (f s.traw s.hraw s.lut) s) := by
  simp [exec_eq_latch hf (ready_latch _ hr)]

/-- A conversion in a ready engine completes with MISS as R23 says, and with RESULT 0 on a miss. -/
theorem exec_miss_of_ready {i : Instr} (hc : i.isConversion = true) {s : State} (hr : Ready s) :
    ∃ t, exec i s = .next t ∧ t.miss = (i.usesLookup && decide (lookup s.lut s.hraw = .miss)) ∧
      (t.miss = true → t.result = 0#32) := by
  obtain ⟨f, hf⟩ := conversionOf_of_isConversion hc
  refine ⟨_, exec_eq_latch hf hr, ?_, fun hm => ?_⟩
  · rw [latch_miss, conversionOf_flag hf]
  · rw [latch_miss] at hm
    rw [latch_result, conversionOf_value_of_miss hf hm]

/-- The eleven conversion commands are conversions. -/
theorem isConversion_of_mem : ∀ i ∈ conversionCommands, i.isConversion = true := by decide

/-- Temperature and humidity commands are conversions without a lookup. -/
theorem isConversion_and_not_usesLookup_of_mem :
    ∀ i ∈ temperatureCommands ++ humidityCommands, i.isConversion = true ∧ i.usesLookup = false := by decide

/-- The lookup commands are conversions with a lookup. -/
theorem isConversion_and_usesLookup_of_mem :
    ∀ i ∈ lookupCommands, i.isConversion = true ∧ i.usesLookup = true := by decide

/-! ## Words that keep MISS -/

/-- LDS in an accepting engine keeps MISS. -/
theorem exec_lds_keeps_miss {s : State} (arg : Word32) (ha : Accepting s) :
    ∃ t, exec (.lds arg) s = .next t ∧ t.miss = s.miss := by
  obtain ⟨hw, he⟩ := ha
  exact ⟨_, exec_lds_of_running arg hw he, miss_load arg s⟩

/-- Without a sample every command keeps MISS: LDS loads one, a conversion raises NoSample. -/
theorem exec_without_sample_keeps_miss (i : Instr) {s : State} (ha : Accepting s) (hv : s.sv = false) :
    ∃ t, exec i s = .next t ∧ t.miss = s.miss := by
  obtain ⟨arg, rfl, -, -⟩ | ⟨-, -, hc, -⟩ := exec_shape i
  · exact exec_lds_keeps_miss arg ha
  · obtain ⟨hw, he⟩ := ha
    exact ⟨_, exec_of_no_sample hc hw he hv, raise_miss _ s⟩

/-- A pending word that is illegal, or that comes before any sample, keeps MISS in an accepting engine. -/
theorem step_fault_keeps_miss {s : State} {w : CmdWord} {rest : List HostAction} (ha : Accepting s)
    (hp : s.port = .issue w :: rest) (hw : (∃ y, decode w = .illegal y) ∨ s.sv = false) :
    ∃ t, step s = .next t ∧ t.miss = s.miss := by
  rw [step_of_pending hp]
  cases hd : decode w with
  | illegal y =>
    rw [perform_illegal _ hd]
    obtain ⟨hwf, he⟩ := ha
    exact ⟨_, rejectWord_of_running hwf he, raise_miss _ _⟩
  | command i =>
    rw [perform_command _ hd]
    obtain ⟨y, hy⟩ | hv := hw
    · rw [hd] at hy; cases hy
    · exact exec_without_sample_keeps_miss i (s := { s with port := rest }) ha hv

/-- A step over a word in a halted engine changes nothing but the pending actions (R105). -/
theorem step_word_of_halted {s t : State} {w : CmdWord} {rest : List HostAction} (he : s.err = true)
    (hp : s.port = .issue w :: rest) (h : step s = .next t) : t = { s with port := rest } := by
  have hne : State.err { s with port := rest } ≠ false := by simp [he]
  rw [step_of_pending hp] at h
  cases hd : decode w with
  | illegal y =>
    rw [perform_illegal _ hd] at h
    obtain ⟨-, ⟨-, ht⟩ | ⟨he', -⟩⟩ := rejectWord_next h
    · exact ht
    · exact absurd he' hne
  | command i =>
    rw [perform_command _ hd] at h
    obtain ⟨hw, -⟩ := exec_next h
    rw [exec_of_halted i hw he] at h
    cases h; rfl

/-! ## No command reads MISS -/

/-- `s` and `s'` have the same table and registers, but for MISS; nothing is said of what the host has pending. -/
structure SameButMiss (s s' : State) : Prop where
  lut : s'.lut = s.lut
  sample : s'.sample = s.sample
  result : s'.result = s.result
  sv : s'.sv = s.sv
  rv : s'.rv = s.rv
  err : s'.err = s.err
  cause : s'.cause = s.cause

/-- `s` with MISS flipped. -/
def flipMiss (s : State) : State := { s with status := s.status ^^^ 0b000100#6 }

/-- Flipping MISS leaves everything else. -/
theorem sameButMiss_flipMiss (s : State) : SameButMiss s (flipMiss s) :=
  ⟨rfl, rfl, rfl, Flags.sv_flipMiss _, Flags.rv_flipMiss _, Flags.err_flipMiss _, Flags.cause_flipMiss _⟩

namespace SameButMiss

variable {s s' : State} (h : SameButMiss s s')
include h

theorem traw : s'.traw = s.traw := congrArg (BitVec.extractLsb' 16 16) h.sample
theorem hraw : s'.hraw = s.hraw := congrArg (BitVec.extractLsb' 0 16) h.sample

/-- Two engines alike but for MISS are ready together. -/
theorem ready (hr : Ready s) : Ready s' := by
  simpa [Ready, Accepting, h.lut, h.err, h.sv] using hr

/-- Latching one conversion in both keeps them alike. -/
theorem after_latch (c : Conversion) : SameButMiss (latch c s) (latch c s') := by
  constructor <;> simp [h.lut, h.sample, h.sv, h.err, h.cause]

/-- Loading one sample in both keeps them alike. -/
theorem after_load (a : Word32) :
    SameButMiss { s with sample := a, status := Flags.sampleLoaded s.status }
      { s' with sample := a, status := Flags.sampleLoaded s'.status } :=
  ⟨h.lut, rfl, h.result, by rw [sv_load, sv_load], by rw [rv_load, rv_load, h.rv], by rw [err_load, err_load, h.err],
    by rw [cause_load, cause_load, h.cause]⟩

/-- The first fault, entered in both, keeps them alike. -/
theorem after_raise (c : Cause) (he : s.err = false) : SameButMiss (raise c s) (raise c s') := by
  have he' : s'.err = false := h.err.trans he
  constructor <;> simp [h.lut, h.sample, h.result, h.sv, h.rv, raise_cause c _ he, raise_cause c _ he']

/-- A command answers alike in two engines that are alike but for MISS (R23: no command reads it). -/
theorem after_exec {i : Instr} {t : State} (hx : exec i s = .next t) :
    ∃ t', exec i s' = .next t' ∧ SameButMiss t t' := by
  obtain ⟨hw, hcase⟩ := exec_next hx
  have hw' : LutWF s'.lut := h.lut ▸ hw
  obtain ⟨he, rfl⟩ | ⟨he, a, rfl, rfl⟩ | ⟨he, hv, hc, rfl⟩ | ⟨he, hv, f, hf, rfl⟩ := hcase
  all_goals have he' := h.err.trans he
  · exact ⟨_, exec_of_halted i hw' he', h⟩
  · exact ⟨_, exec_lds_of_running a hw' he', h.after_load a⟩
  · exact ⟨_, exec_of_no_sample hc hw' he' (h.sv.trans hv), h.after_raise _ he⟩
  · have hx' := exec_of_ready hf hw' he' (h.sv.trans hv)
    rw [h.traw, h.hraw, h.lut] at hx'
    exact ⟨_, hx', h.after_latch _⟩

/-- A conversion completed in two ready engines that are alike but for MISS leaves MISS the same in both. -/
theorem miss_after_conversion {i : Instr} {t t' : State} (hr : Ready s) (hc : i.isConversion = true)
    (hx : exec i s = .next t) (hx' : exec i s' = .next t') : t'.miss = t.miss := by
  obtain ⟨f, hf⟩ := conversionOf_of_isConversion hc
  rw [exec_eq_latch hf hr] at hx
  rw [exec_eq_latch hf (h.ready hr)] at hx'
  cases hx; cases hx'
  rw [latch_miss, latch_miss, h.traw, h.hraw, h.lut]

end SameButMiss

/-! ## The obligations -/

/-- Settles O53: every conversion latches a function of the sample and the table, whose MISS does not read TRAW, and latching leaves both in place. -/
theorem conversionsArePure : Obligations.ConversionsArePure := by
  intro i hi
  obtain ⟨f, hf⟩ := conversionOf_of_isConversion (isConversion_of_mem i hi)
  refine ⟨fun t h lut => (f t h lut).value, fun h lut => i.usesLookup && decide (lookup lut h = .miss), fun s hr => ?_⟩
  refine ⟨_, exec_eq_latch hf hr, latch_result _ s, ?_, exec_latch_eq hf hr⟩
  rw [latch_miss, conversionOf_flag hf]

/-- Settles O54, clause by clause; the last is the simulation between engines that are alike but for MISS. -/
theorem missFlagRule : Obligations.MissFlagRule := by
  refine ⟨fun s hr i hi => ?_, fun s hr i hi => ?_, fun s arg => exec_lds_keeps_miss arg,
    fun s w rest => step_fault_keeps_miss, fun s t w rest he hp h => ?_, fun s i t h => ?_⟩
  · obtain ⟨hc, hu⟩ := isConversion_and_not_usesLookup_of_mem i hi
    obtain ⟨t, hx, hm, -⟩ := exec_miss_of_ready hc hr
    exact ⟨t, hx, by rw [hm, hu, Bool.false_and]⟩
  · obtain ⟨hc, hu⟩ := isConversion_and_usesLookup_of_mem i hi
    obtain ⟨t, hx, hm, h0⟩ := exec_miss_of_ready hc hr
    exact ⟨t, hx, by rw [hm, hu, Bool.true_and, decide_eq_true_iff], h0⟩
  · rw [step_word_of_halted he hp h, miss_setPort]
  · have hflip := sameButMiss_flipMiss s
    obtain ⟨t', hx', ht⟩ := hflip.after_exec h
    exact ⟨t', hx', ht.result, ht.sample, ht.sv, ht.rv, ht.err, ht.cause, fun hr hc => hflip.miss_after_conversion hr hc h hx'⟩

end Sys2Proof.Machine

/-! # The sample load family (spec/40_sample_load.md): the bytes of a frame and the fields of SAMPLE (R35, R56) -/

namespace Sys2Proof.Machine

/-! ## The fields of SAMPLE are its halves -/

section
variable {s : State} {a h : U16} (hs : s.sample = a ++ h)
include hs

/-- The upper half of SAMPLE is TRAW. -/
theorem traw_of_sample_append : s.traw = a := by
  rw [State.traw, hs, BitVec.extractLsb'_append_eq_left]

/-- The lower half of SAMPLE is HRAW. -/
theorem hraw_of_sample_append : s.hraw = h := by
  rw [State.hraw, hs, BitVec.extractLsb'_append_eq_right]

end

/-- LDS in an accepting engine loads the two halves of its argument into the fields as they are. -/
theorem exec_lds_append {s : State} (a h : U16) (hacc : Accepting s) :
    ∃ t, exec (.lds (a ++ h)) s = .next t ∧ t.traw = a ∧ t.hraw = h := by
  obtain ⟨hw, he⟩ := hacc
  exact ⟨_, exec_lds_of_running _ hw he, traw_of_sample_append rfl, hraw_of_sample_append rfl⟩

/-! ## The bytes of a frame -/

/-- The first two bytes of a frame are the upper half of its word, the last two the lower half. -/
theorem frameWord_eq_append (b0 b1 b2 b3 : BitVec 8) :
    frameWord b0 b1 b2 b3 = (b0 ++ b1 : U16) ++ (b2 ++ b3 : U16) := by
  rw [frameWord, BitVec.append_assoc, BitVec.cast_eq]

/-- Two bytes make a big-endian 16-bit value. -/
theorem toNat_bytePair (hi lo : BitVec 8) : (hi ++ lo).toNat = hi.toNat * 256 + lo.toNat := by
  rw [BitVec.toNat_append, ← Nat.shiftLeft_add_eq_or_of_lt lo.isLt, Nat.shiftLeft_eq]

/-! ## The obligation -/

/-- Settles O21: a frame's word is two byte pairs, LDS loads each half as it is, and a byte pair is big-endian. -/
theorem sampleFrameIsBigEndian : Obligations.SampleFrameIsBigEndian := by
  refine ⟨fun s b0 b1 b2 b3 hacc => ?_, fun s a h hacc => exec_lds_append a h hacc, by decide⟩
  obtain ⟨t, hx, ht, hh⟩ := exec_lds_append (b0 ++ b1) (b2 ++ b3) hacc
  rw [frameWord_eq_append]
  exact ⟨t, hx, by rw [ht, toNat_bytePair], by rw [hh, toNat_bytePair]⟩

end Sys2Proof.Machine

/-! # The encoding family (spec/30_encoding.md): words and their fields (R44 to R48), the decoder (R49, R50), the opcode map (R46) -/

namespace Sys2Proof

open Sys2Proof.Machine Sys2Proof.Claims

/-! ## A word is its two fields -/

/-- A word is its OP followed by its ARG (R44). -/
theorem opField_append_argField (w : CmdWord) : opField w ++ argField w = w :=
  BitVec.extractLsb'_append_extractLsb'

/-- Two words are equal when their fields are. -/
theorem word_ext_iff {w w' : CmdWord} : w = w' ↔ opField w = opField w' ∧ argField w = argField w' := by
  refine ⟨fun h => h ▸ ⟨rfl, rfl⟩, fun ⟨ho, ha⟩ => ?_⟩
  rw [← opField_append_argField w, ho, ha, opField_append_argField]

@[simp] theorem opField_and (w m : CmdWord) : opField (w &&& m) = opField w &&& opField m := BitVec.extractLsb'_and
@[simp] theorem argField_and (w m : CmdWord) : argField (w &&& m) = argField w &&& argField m := BitVec.extractLsb'_and

@[simp] theorem opField_encode (i : Instr) : opField (encode i) = i.opcode := BitVec.extractLsb'_append_eq_left
@[simp] theorem argField_encode (i : Instr) : argField (encode i) = i.argument := BitVec.extractLsb'_append_eq_right

/-- A word is the word of a command when its fields are the command's opcode and argument. -/
theorem encode_eq_iff {i : Instr} {w : CmdWord} : encode i = w ↔ opField w = i.opcode ∧ argField w = i.argument := by
  rw [eq_comm, word_ext_iff, opField_encode, argField_encode]

/-! ## The opcodes of the commands -/

/-- Every command is LDS or one of the eleven conversions. -/
theorem eq_lds_or_mem_conversionCommands (i : Instr) : (∃ a, i = .lds a) ∨ i ∈ conversionCommands := by
  cases i with
  | lds a => exact .inl ⟨a, rfl⟩
  | _ => exact .inr (by decide)

/-- A conversion has no argument, and its opcode is not that of LDS (R48). -/
theorem argument_and_opcode_of_mem : ∀ i ∈ conversionCommands, i.argument = 0#32 ∧ i.opcode ≠ 0xC#4 := by decide

/-- The opcode map of the decoder finds each conversion at its opcode. -/
theorem decodeOpcode_opcode_of_mem : ∀ i ∈ conversionCommands, decodeOpcode i.opcode = some i := by decide

/-- What the opcode map of the decoder finds is a conversion with that opcode. -/
theorem opcode_of_mem_decodeOpcode : ∀ op, ∀ i ∈ decodeOpcode op, i ∈ conversionCommands ∧ i.opcode = op := by decide

/-- A command with the opcode of a conversion is that conversion. -/
theorem eq_of_opcode_eq {i j : Instr} (hi : i ∈ conversionCommands) (h : j.opcode = i.opcode) : j = i := by
  obtain ⟨a, rfl⟩ | hj := eq_lds_or_mem_conversionCommands j
  · exact absurd h.symm (argument_and_opcode_of_mem i hi).2
  · have hs := decodeOpcode_opcode_of_mem j hj
    rw [h, decodeOpcode_opcode_of_mem i hi] at hs
    exact (Option.some.inj hs).symm

/-! ## The decoder, one equation per case of R50 -/

section
variable {w : CmdWord}

/-- OP 0xC is LDS, whatever the argument. -/
theorem decode_of_lds (h : opField w = 0xC#4) : decode w = .command (.lds (argField w)) := if_pos h

/-- A nonzero argument is illegal under every other OP. -/
theorem decode_of_nonzero_arg (h : opField w ≠ 0xC#4) (ha : argField w ≠ 0#32) : decode w = .illegal .nonzeroArg := by
  rw [decode, if_neg h, if_pos ha]

/-- With argument 0 the opcode map decides: a row's command. -/
theorem decode_of_decodeOpcode_some {i : Instr} (h : opField w ≠ 0xC#4) (ha : argField w = 0#32)
    (ho : decodeOpcode (opField w) = some i) : decode w = .command i := by
  rw [decode, if_neg h, if_neg (not_not.mpr ha), ho]

/-- With argument 0 the opcode map decides: no row. -/
theorem decode_of_decodeOpcode_none (h : opField w ≠ 0xC#4) (ha : argField w = 0#32)
    (ho : decodeOpcode (opField w) = none) : decode w = .illegal .reservedOpcode := by
  rw [decode, if_neg h, if_neg (not_not.mpr ha), ho]

/-- A word with a conversion's opcode and argument 0 is that conversion. -/
theorem decode_of_conversion {i : Instr} (hi : i ∈ conversionCommands) (ho : opField w = i.opcode)
    (ha : argField w = 0#32) : decode w = .command i :=
  decode_of_decodeOpcode_some (ho ▸ (argument_and_opcode_of_mem i hi).2) ha (ho ▸ decodeOpcode_opcode_of_mem i hi)

/-- The fields of a word that decodes to a command are the command's own. -/
theorem fields_of_decode {i : Instr} (h : decode w = .command i) : opField w = i.opcode ∧ argField w = i.argument := by
  by_cases hC : opField w = 0xC#4
  · rw [decode_of_lds hC] at h
    cases h; exact ⟨hC, rfl⟩
  by_cases ha : argField w = 0#32
  · cases ho : decodeOpcode (opField w) with
    | none => rw [decode_of_decodeOpcode_none hC ha ho] at h; cases h
    | some j =>
      rw [decode_of_decodeOpcode_some hC ha ho] at h
      cases h
      obtain ⟨hj, hop⟩ := opcode_of_mem_decodeOpcode _ _ ho
      exact ⟨hop.symm, ha.trans (argument_and_opcode_of_mem _ hj).1.symm⟩
  · rw [decode_of_nonzero_arg hC ha] at h; cases h

/-- Decoding and encoding are inverse (R50): a word decodes to a command exactly when it is the command's word. -/
theorem decode_eq_command_iff {i : Instr} : decode w = .command i ↔ encode i = w := by
  rw [encode_eq_iff]
  refine ⟨fields_of_decode, fun ⟨ho, ha⟩ => ?_⟩
  obtain ⟨a, rfl⟩ | hi := eq_lds_or_mem_conversionCommands i
  · rw [decode_of_lds ho, ha]; rfl
  · exact decode_of_conversion hi ho (ha.trans (argument_and_opcode_of_mem i hi).1)

/-- A word whose OP no command has is illegal. -/
theorem illegal_of_opField_ne_opcode (h : ∀ i : Instr, opField w ≠ i.opcode) : ∃ y, decode w = .illegal y := by
  cases hd : decode w with
  | illegal y => exact ⟨y, rfl⟩
  | command i => exact absurd (fields_of_decode hd).1 (h i)

/-- A word decodes to a command with OP 0xC exactly when that is its OP. -/
theorem exists_decode_opcode_lds_iff : (∃ i, decode w = .command i ∧ i.opcode = 0xC#4) ↔ opField w = 0xC#4 :=
  ⟨fun ⟨_, hd, ho⟩ => (fields_of_decode hd).1.trans ho, fun h => ⟨_, decode_of_lds h, rfl⟩⟩

/-- A word decodes to a command with a conversion's OP exactly when that is its OP and its argument is 0. -/
theorem exists_decode_opcode_iff {i : Instr} (hi : i ∈ conversionCommands) :
    (∃ j, decode w = .command j ∧ j.opcode = i.opcode) ↔ opField w = i.opcode ∧ argField w = 0#32 := by
  refine ⟨fun ⟨j, hd, ho⟩ => ?_, fun ⟨ho, ha⟩ => ⟨i, decode_of_conversion hi ho ha, rfl⟩⟩
  obtain rfl := eq_of_opcode_eq hi ho
  rw [← (argument_and_opcode_of_mem j hi).1]
  exact fields_of_decode hd

end

/-- Settles O5: the cases are the decoder's equations, the round trip is `decode_eq_command_iff`. -/
theorem decodeEncodeAgree : Obligations.DecodeEncodeAgree := by
  refine ⟨fun w => decode_of_lds, fun w hC ha => ⟨_, decode_of_nonzero_arg hC ha⟩,
    fun w ha i hi ho => decode_of_conversion hi ho ha, fun w hC _ hne => ?_,
    fun i => decode_eq_command_iff.mpr rfl, fun w i => decode_eq_command_iff.mp⟩
  refine illegal_of_opField_ne_opcode fun i ho => ?_
  obtain ⟨a, rfl⟩ | hi := eq_lds_or_mem_conversionCommands i
  · exact hC ho
  · exact hne i hi ho

/-! ## The opcode map (R46) -/

/-- A row's pattern holds its OP and argument 0; its mask reads all of OP, and no bit of ARG for LDS, every bit for a conversion. -/
theorem opcodeMap_row_fields : ∀ r ∈ opcodeMap,
    opField r.mask = BitVec.allOnes 4 ∧ opField r.pattern = r.op ∧ argField r.pattern = 0#32 ∧
    ((argField r.mask = 0#32 ∧ r.op = 0xC#4) ∨
      (argField r.mask = BitVec.allOnes 32 ∧ ∃ i ∈ conversionCommands, i.opcode = r.op)) := by decide

/-- A word selects a row exactly when it has the row's OP and no argument bit that the row's mask reads. -/
theorem selects_iff_fields (w : CmdWord) {r : OpRow} (hr : r ∈ opcodeMap) :
    w &&& r.mask = r.pattern ↔ opField w = r.op ∧ argField w &&& argField r.mask = 0#32 := by
  obtain ⟨hm, hop, harg, -⟩ := opcodeMap_row_fields r hr
  rw [word_ext_iff, opField_and, argField_and, hm, BitVec.and_allOnes, hop, harg]

/-- A word selects a row exactly when it decodes to a command with the row's OP. -/
theorem selects_iff_decodes (w : CmdWord) {r : OpRow} (hr : r ∈ opcodeMap) :
    w &&& r.mask = r.pattern ↔ ∃ i, decode w = .command i ∧ i.opcode = r.op := by
  rw [selects_iff_fields w hr]
  obtain ⟨-, -, -, ⟨hm, ho⟩ | ⟨hm, i, hi, ho⟩⟩ := opcodeMap_row_fields r hr
  · rw [hm, ho, BitVec.and_zero, exists_decode_opcode_lds_iff, and_iff_left rfl]
  · rw [hm, ← ho, BitVec.and_allOnes, exists_decode_opcode_iff hi]

/-- No two rows have one OP. -/
theorem row_eq_of_op_eq : ∀ r ∈ opcodeMap, ∀ r' ∈ opcodeMap, r.op = r'.op → r = r' := by decide

/-- The row of each command without an operand, and of LDS: its opcode and its mnemonic. -/
theorem exists_row_of_mem : ∀ i ∈ .lds 0#32 :: conversionCommands,
    ∃ r ∈ opcodeMap, r.op = i.opcode ∧ r.mnemonic.toList = asmMnemonic i := by decide

/-- Every command has its row; the row of LDS does not depend on the argument. -/
theorem exists_row (i : Instr) : ∃ r ∈ opcodeMap, r.op = i.opcode ∧ r.mnemonic.toList = asmMnemonic i := by
  obtain ⟨a, rfl⟩ | hi := eq_lds_or_mem_conversionCommands i
  · exact exists_row_of_mem (.lds 0#32) List.mem_cons_self
  · exact exists_row_of_mem i (List.mem_cons_of_mem _ hi)

/-- Settles O6: matching a row is having its fields, which is decoding to its OP; a word has one OP and an OP one row. -/
theorem opcodeMapSelectsRows : Obligations.OpcodeMapSelectsRows := by
  refine ⟨rfl, fun w r hr => selects_iff_decodes w hr, fun w r hr r' hr' h h' => ?_, exists_row, by decide⟩
  have ho := ((selects_iff_fields w hr).mp h).1
  have ho' := ((selects_iff_fields w hr').mp h').1
  exact row_eq_of_op_eq r hr r' hr' (ho.symm.trans ho')

/-! ## The sub-fields of OP (R45) -/

/-- The OP of every command is that of a row of the opcode map. -/
theorem opcode_mem_rows (i : Instr) : i.opcode ∈ opcodeMap.map OpRow.op := by
  obtain ⟨r, hr, ho, -⟩ := exists_row i
  exact ho ▸ List.mem_map_of_mem hr

/-- FAM of a command's opcode is its family. -/
theorem famField_opcode (i : Instr) : famField i.opcode = familyCode i := by
  cases i with
  | lds a => show famField 0xC#4 = 3#2; decide
  | _ => decide

/-- UNIT is set for the Fahrenheit commands only, QF for the Q16 variants only, family 3 apart. -/
theorem unitField_and_qfField_of_mem : ∀ i ∈ conversionCommands, familyCode i ≠ 3#2 →
    (unitField i.opcode = true ↔ i ∈ fahrenheitCommands) ∧ (qfField i.opcode = true ↔ i ∈ q16Commands) := by decide

/-- A command outside family 3 is a conversion. -/
theorem mem_conversionCommands_of_familyCode {i : Instr} (h : familyCode i ≠ 3#2) : i ∈ conversionCommands := by
  obtain ⟨a, rfl⟩ | hi := eq_lds_or_mem_conversionCommands i
  · exact absurd rfl h
  · exact hi

/-- No row has FAM 1 with UNIT 1, nor FAM 3 with function 2 or 3: these combinations are reserved. -/
theorem rows_not_reserved : ∀ op ∈ opcodeMap.map OpRow.op,
    (famField op = 1#2 → unitField op ≠ true) ∧ (famField op = 3#2 → fnField op ≠ 2#2 ∧ fnField op ≠ 3#2) := by decide

/-- Function 0 of family 3 is OP 0xC and function 1 is OP 0xD. -/
theorem opcode_of_family3 : ∀ op, famField op = 3#2 →
    (fnField op = 0#2 → op = 0xC#4) ∧ (fnField op = 1#2 → op = Instr.lnh.opcode) := by decide

/-- Settles O7: the fields of the defined opcodes, and no command at the reserved combinations. -/
theorem opcodeSubfields : Obligations.OpcodeSubfields := by
  refine ⟨fun i => ⟨opField_encode i, by rw [opField_encode, famField_opcode]⟩,
    fun i hf => (unitField_and_qfField_of_mem i (mem_conversionCommands_of_familyCode hf) hf).1,
    fun i hf => (unitField_and_qfField_of_mem i (mem_conversionCommands_of_familyCode hf) hf).2,
    fun w hf hu => illegal_of_opField_ne_opcode fun i ho => ?_,
    fun w hf hn => decode_of_lds ((opcode_of_family3 _ hf).1 hn),
    fun w hf hn ha => decode_of_conversion (by decide) ((opcode_of_family3 _ hf).2 hn) ha,
    fun w hf hn => illegal_of_opField_ne_opcode fun i ho => ?_⟩
  all_goals obtain ⟨h1, h3⟩ := rows_not_reserved _ (ho ▸ opcode_mem_rows i)
  · exact h1 hf hu
  · obtain ⟨h2, h3⟩ := h3 hf
    exact hn.elim h2 h3

end Sys2Proof

/-! # The encoding family: the four ordered steps of a command (R51), and what a halted engine keeps (R105) -/

namespace Sys2Proof.Machine

open Sys2Proof.Claims

/-! ## The halted engine -/

/-- A step of a halted engine that takes no reset changes at most the pending actions (R105). -/
theorem step_of_halted_next {s t : State} (he : s.err = true) (hr : ∀ rest, s.port ≠ .reset :: rest)
    (h : step s = .next t) : ∃ p, t = { s with port := p } := by
  obtain ⟨-, -, ht⟩ | ⟨rest, hp, -⟩ | ⟨w, rest, y, hp, -, -⟩ | ⟨w, rest, i, hp, -, -⟩ := step_next h
  · exact ⟨s.port, ht⟩
  · exact absurd hp (hr rest)
  · exact ⟨rest, step_word_of_halted he hp h⟩
  · exact ⟨rest, step_word_of_halted he hp h⟩

/-! ## Only a reset clears ERR or CAUSE -/

/-- From `s` to `t` neither a set ERR nor a nonzero CAUSE is cleared. -/
def KeepsFault (s t : State) : Prop := (s.err = true → t.err = true) ∧ (s.cause ≠ 0#2 → t.cause ≠ 0#2)

/-- Equal ERR and CAUSE are not cleared. -/
theorem keepsFault_of_eq {s t : State} (he : t.err = s.err) (hc : t.cause = s.cause) : KeepsFault s t := by
  rw [KeepsFault, he, hc]; exact ⟨id, id⟩

/-- The code of a cause is not 0 (R100). -/
theorem causeCode_ne_zero (c : Cause) : causeCode c ≠ 0#2 := by
  cases c <;> decide

/-- Fault entry sets ERR and writes a nonzero CAUSE. -/
theorem keepsFault_raise (c : Cause) {s : State} (he : s.err = false) : KeepsFault s (raise c s) :=
  ⟨fun _ => raise_err c s, fun _ => raise_cause c s he ▸ causeCode_ne_zero c⟩

/-- No command clears ERR or CAUSE. -/
theorem exec_keepsFault {i : Instr} {s t : State} (h : exec i s = .next t) : KeepsFault s t := by
  obtain ⟨-, ⟨-, rfl⟩ | ⟨-, a, -, rfl⟩ | ⟨he, -, -, rfl⟩ | ⟨-, -, f, -, rfl⟩⟩ := exec_next h
  · exact keepsFault_of_eq rfl rfl
  · exact keepsFault_of_eq (err_load a s) (cause_load a s)
  · exact keepsFault_raise .noSample he
  · exact keepsFault_of_eq (latch_err _ s) (latch_cause _ s)

/-- No illegal word clears ERR or CAUSE. -/
theorem rejectWord_keepsFault {s t : State} (h : rejectWord s = .next t) : KeepsFault s t := by
  obtain ⟨-, ⟨-, rfl⟩ | ⟨he, rfl⟩⟩ := rejectWord_next h
  · exact keepsFault_of_eq rfl rfl
  · exact keepsFault_raise .illegalCommand he

/-- No step clears ERR or CAUSE but one that takes a reset. -/
theorem step_keepsFault {s t : State} (hr : ∀ rest, s.port ≠ .reset :: rest) (h : step s = .next t) :
    KeepsFault s t := by
  obtain ⟨-, -, rfl⟩ | ⟨rest, hp, -⟩ | ⟨w, rest, y, -, -, hx⟩ | ⟨w, rest, i, -, -, hx⟩ := step_next h
  · exact keepsFault_of_eq rfl rfl
  · exact absurd hp (hr rest)
  · exact rejectWord_keepsFault (s := { s with port := rest }) hx
  · exact exec_keepsFault (s := { s with port := rest }) hx

/-! ## A word in a running engine -/

/-- Fault entry in a running engine is what `Raises` says, frame included (R101). -/
theorem raises_raise (c : Cause) {s : State} (he : s.err = false) : Raises (.next (raise c s)) s (causeCode c) :=
  ⟨_, rfl, raise_err c s, raise_cause c s he, raise_sv c s, raise_rv c s, raise_miss c s, raise_sample c s,
    raise_result c s, raise_lut c s, raise_port c s, raise_draws c s⟩

section
variable {s : State} {w : CmdWord} {rest : List HostAction} (hp : s.port = .issue w :: rest)
include hp

/-- A step over a pending word that is a command executes it, the word taken off the port. -/
theorem step_of_command {i : Instr} (hd : decode w = .command i) : step s = exec i { s with port := rest } := by
  rw [step_of_pending hp, perform_command _ hd]

/-- A step over a pending word that is illegal rejects it, the word taken off the port. -/
theorem step_of_illegal {y : Illegal} (hd : decode w = .illegal y) : step s = rejectWord { s with port := rest } := by
  rw [step_of_pending hp, perform_illegal _ hd]

variable (hw : LutWF s.lut) (he : s.err = false)
include hw he

/-- Step (2) of R51: an illegal word raises IllegalCommand. -/
theorem step_illegal_raises (hd : ∃ y, decode w = .illegal y) : Raises (step s) { s with port := rest } 1#2 := by
  obtain ⟨y, hd⟩ := hd
  rw [step_of_illegal hp hd, rejectWord_of_running (s := { s with port := rest }) hw he]
  exact raises_raise .illegalCommand (s := { s with port := rest }) he

/-- Step (3) of R51: a conversion without a sample raises NoSample. -/
theorem step_without_sample_raises {i : Instr} (hd : decode w = .command i) (hc : i.isConversion = true)
    (hv : s.sv = false) : Raises (step s) { s with port := rest } 2#2 := by
  rw [step_of_command hp hd, exec_of_no_sample (s := { s with port := rest }) hc hw he hv]
  exact raises_raise .noSample (s := { s with port := rest }) he

/-- Step (4) of R51 for a conversion: it latches its own value and writes RESULT, RV and MISS only. -/
theorem step_conversion_completes {i : Instr} (hd : decode w = .command i) (hc : i.isConversion = true)
    (hv : s.sv = true) : ∃ c, step s = .next (latch c { s with port := rest }) := by
  obtain ⟨f, hf⟩ := conversionOf_of_isConversion hc
  exact ⟨_, (step_of_command hp hd).trans (exec_of_ready (s := { s with port := rest }) hf hw he hv)⟩

/-- Step (4) of R51 for LDS: it loads its argument. -/
theorem step_lds_completes {arg : Word32} (hd : decode w = .command (.lds arg)) :
    step s = .next { s with port := rest, sample := arg, status := Flags.sampleLoaded s.status } :=
  (step_of_command hp hd).trans (exec_lds_of_running arg (s := { s with port := rest }) hw he)

end

/-- Settles O11: a halted engine keeps all but its port, only reset clears ERR and CAUSE, and the three outcomes of a running engine's word. -/
theorem commandStepsInOrder : Obligations.CommandStepsInOrder := by
  refine ⟨fun s t he hr h => ?_, fun s t h hclear => ?_, fun s w rest hw hp =>
    ⟨fun he hd => step_illegal_raises hp hw he hd, fun he i hd hc hv => step_without_sample_raises hp hw he hd hc hv,
      fun he i hd hc hv => ?_, fun he arg hd => ?_⟩⟩
  · obtain ⟨p, rfl⟩ := step_of_halted_next he hr h
    exact ⟨⟨rfl, rfl, rfl, rfl⟩, he, rfl, fun _ => rfl, rfl⟩
  · by_contra hno
    obtain ⟨herr, hcause⟩ := step_keepsFault (fun rest hp => hno ⟨rest, hp⟩) h
    obtain ⟨he, he'⟩ | ⟨hc, hc'⟩ := hclear
    · rw [herr he] at he'; cases he'
    · exact hcause hc hc'
  · obtain ⟨c, hx⟩ := step_conversion_completes hp hw he hd hc hv
    exact ⟨_, hx, step_of_command hp hd ▸ hx, latch_rv _ _, (latch_sv _ _).trans hv, (latch_err _ _).trans he,
      latch_cause _ _, rfl, rfl, rfl, rfl⟩
  · exact ⟨_, step_lds_completes hp hw he hd, rfl, sv_load arg s, rv_load arg s, miss_load arg s,
      (err_load arg s).trans he, cause_load arg s, rfl, rfl, rfl, rfl⟩

end Sys2Proof.Machine

/-! # The encoding family: the pseudo-commands LDS2 and LDB (R53) -/

namespace Sys2Proof.Machine

/-- A line outside its bounds does not expand. -/
theorem asmExpand_of_not_wf {l : AsmLine} (h : asmWf l = false) : asmExpand l = none :=
  if_neg (h ▸ Bool.false_ne_true)

/-- LDS2 expands to the load of its two halves. -/
theorem asmExpand_lds2 {t h : Nat} (ht : t ≤ 65535) (hh : h ≤ 65535) :
    asmExpand (.lds2 t h) = some (.lds (BitVec.ofNat 32 (t * 65536 + h))) :=
  if_pos (decide_eq_true ⟨ht, hh⟩)

/-- LDB expands to the load of its four bytes. -/
theorem asmExpand_ldb {b0 b1 b2 b3 : Nat} (h0 : b0 ≤ 255) (h1 : b1 ≤ 255) (h2 : b2 ≤ 255) (h3 : b3 ≤ 255) :
    asmExpand (.ldb b0 b1 b2 b3) = some (.lds (BitVec.ofNat 32 (b0 * 16777216 + b1 * 65536 + b2 * 256 + b3))) :=
  if_pos (decide_eq_true ⟨h0, h1, h2, h3⟩)

/-- The word of two halves as one number. -/
theorem append_halves_eq_ofNat (a h : U16) : a ++ h = BitVec.ofNat 32 (a.toNat * 65536 + h.toNat) := by
  have hn : (a ++ h).toNat = a.toNat * 65536 + h.toNat := by
    rw [BitVec.toNat_append, ← Nat.shiftLeft_add_eq_or_of_lt h.isLt, Nat.shiftLeft_eq]
  rw [← hn, BitVec.ofNat_toNat, BitVec.setWidth_eq]

/-- The word of a frame as one number. -/
theorem frameWord_eq_ofNat (b0 b1 b2 b3 : BitVec 8) : frameWord b0 b1 b2 b3 =
    BitVec.ofNat 32 (b0.toNat * 16777216 + b1.toNat * 65536 + b2.toNat * 256 + b3.toNat) := by
  rw [frameWord_eq_append, append_halves_eq_ofNat, toNat_bytePair, toNat_bytePair]
  exact congrArg (BitVec.ofNat 32) (by omega)

/-- LDS of two 16-bit numbers loads them as TRAW and HRAW. -/
theorem exec_lds_of_halves {s : State} {t h : Nat} (ht : t ≤ 65535) (hh : h ≤ 65535) (hacc : Accepting s) :
    ∃ u, exec (.lds (BitVec.ofNat 32 (t * 65536 + h))) s = .next u ∧ u.traw.toNat = t ∧ u.hraw.toNat = h := by
  have htn : (BitVec.ofNat 16 t).toNat = t := Nat.mod_eq_of_lt (by omega)
  have hhn : (BitVec.ofNat 16 h).toNat = h := Nat.mod_eq_of_lt (by omega)
  obtain ⟨u, hx, hut, huh⟩ := exec_lds_append (BitVec.ofNat 16 t) (BitVec.ofNat 16 h) hacc
  rw [append_halves_eq_ofNat, htn, hhn] at hx
  exact ⟨u, hx, by rw [hut, htn], by rw [huh, hhn]⟩

/-- A byte is at most 255. -/
theorem byte_le (b : BitVec 8) : b.toNat ≤ 255 := Nat.le_of_lt_succ b.isLt

/-- Settles O59: within the bounds the expansions and the number a word's parts make, outside them no expansion. -/
theorem pseudoCommandsExpandToLds : Obligations.PseudoCommandsExpandToLds := by
  refine ⟨fun t h ht hh => ⟨asmExpand_lds2 ht hh, fun s hacc => exec_lds_of_halves ht hh hacc⟩,
    fun b0 b1 b2 b3 => ?_, fun t h hout => asmExpand_of_not_wf (decide_eq_false ?_),
    fun b0 b1 b2 b3 hout => asmExpand_of_not_wf (decide_eq_false ?_), by decide, by decide⟩
  · rw [frameWord_eq_ofNat]
    exact asmExpand_ldb (byte_le b0) (byte_le b1) (byte_le b2) (byte_le b3)
  · omega
  · omega

end Sys2Proof.Machine

/-! # The sample load family: the word of LDS (R44, R57), what it writes (R57) and what it keeps (R58) -/

namespace Sys2Proof.Machine

/-! ## The fields of SAMPLE as numbers -/

/-- TRAW is the high half of SAMPLE. -/
theorem toNat_traw (s : State) : s.traw.toNat = s.sample.toNat / 65536 := by
  have hlt : s.sample.toNat / 65536 < 65536 := Nat.div_lt_of_lt_mul s.sample.isLt
  rw [State.traw, BitVec.extractLsb'_toNat, Nat.shiftRight_eq_div_pow]
  exact Nat.mod_eq_of_lt hlt

/-- HRAW is the low half of SAMPLE. -/
theorem toNat_hraw (s : State) : s.hraw.toNat = s.sample.toNat % 65536 := by
  rw [State.hraw, BitVec.extractLsb'_toNat, Nat.shiftRight_zero]

/-! ## The word of LDS -/

/-- The word of LDS is OP 0xC with the argument added: the two fields share no bit. -/
theorem encode_lds_eq_add (arg : Word32) : encode (.lds arg) = 0xC00000000#36 + arg.zeroExtend 36 := by
  have hlt : arg.toNat < 2 ^ 32 := arg.isLt
  have henc : (encode (.lds arg)).toNat = 0xC00000000 + arg.toNat := by
    show (0xC#4 ++ arg).toNat = _
    rw [BitVec.toNat_append, ← Nat.shiftLeft_add_eq_or_of_lt hlt]
    rfl
  apply BitVec.eq_of_toNat_eq
  rw [henc, BitVec.toNat_add, BitVec.toNat_setWidth, BitVec.toNat_ofNat]
  omega

/-! ## LDS in the halted engine, and the RESULT port after it -/

/-- Whatever a command answers in a halted engine is the state it was given (R105). -/
theorem eq_of_exec_halted {i : Instr} {s t : State} (he : s.err = true) (h : exec i s = .next t) : t = s := by
  obtain ⟨hw, -⟩ := exec_next h
  rw [exec_of_halted i hw he] at h
  cases h; rfl

/-- Loading a sample keeps the RESULT port, which reads RESULT and RV only. -/
@[simp] theorem resultPort_load (a : Word32) (s : State) :
    State.resultPort { s with sample := a, status := Flags.sampleLoaded s.status } = s.resultPort := by
  simp only [State.resultPort, rv_load]

/-- A step with nothing pending changes no register (R110). -/
theorem sameRegisters_of_step_idle {s t : State} (hp : s.port = []) (h : step s = .next t) : SameRegisters s t := by
  rw [step_of_empty hp] at h
  obtain ⟨-, rfl⟩ := idle_next h
  exact ⟨rfl, rfl, rfl, rfl⟩

/-! ## The obligations -/

/-- Settles O20: the word is the sum of its fields, LDS loads its two halves and keeps the rest, and a halted engine keeps its state. -/
theorem ldsLoadsSample : Obligations.LdsLoadsSample := by
  refine ⟨encode_lds_eq_add, fun s arg ⟨hw, he⟩ => ?_, fun s t arg => eq_of_exec_halted, fun s ⟨hw, he⟩ p hp => ?_,
    by decide⟩
  · exact ⟨_, exec_lds_of_running arg hw he, rfl, toNat_traw _, toNat_hraw _, sv_load arg s, rv_load arg s,
      miss_load arg s, err_load arg s, cause_load arg s, rfl, rfl, rfl, rfl⟩
  · have hhalves : ∀ p ∈ [(0x00000000#32, 0, 0), (0xFFFFFFFF#32, 65535, 65535), (0x3FFF8000#32, 16383, 32768)],
        p.1.toNat / 65536 = p.2.1 ∧ p.1.toNat % 65536 = p.2.2 := by decide
    obtain ⟨ht, hh⟩ := hhalves p hp
    exact ⟨_, exec_lds_of_running p.1 hw he, (toNat_traw _).trans ht, (toNat_hraw _).trans hh, sv_load p.1 s⟩

/-- Settles O22: a load touches neither RESULT nor RV nor MISS, so neither the port, and an idle step touches no register. -/
theorem ldsKeepsPreviousResult : Obligations.LdsKeepsPreviousResult := by
  intro s arg ⟨hw, he⟩
  exact ⟨_, exec_lds_of_running arg hw he, rfl, fun _ => resultPort_load arg s, rv_load arg s, miss_load arg s,
    fun u => sameRegisters_of_step_idle⟩

end Sys2Proof.Machine

/-! # The temperature family (spec/41_temperature.md): the dew-point chain is monotone, which bounds every arithmetic command (R64) -/

namespace Sys2Proof.Machine

/-! ## Truncating division across two divisors -/

/-- `sdiv` is monotone in the exact quotient, compared across positive divisors. -/
theorem sdiv_le_sdiv_of_cross {a b a' b' : Int} (hb : 0 < b) (hb' : 0 < b') (h : a * b' ≤ a' * b) :
    sdiv a b ≤ sdiv a' b' := by
  have hl : sdiv (b' * a) (b' * b) = sdiv a b := by
    rw [sdiv_of_ne_zero (mul_pos hb' hb).ne', sdiv_of_ne_zero hb.ne', Int.mul_tdiv_mul_of_pos _ _ hb']
  have hr : sdiv (b * a') (b * b') = sdiv a' b' := by
    rw [sdiv_of_ne_zero (mul_pos hb hb').ne', sdiv_of_ne_zero hb'.ne', Int.mul_tdiv_mul_of_pos _ _ hb]
  rw [← hl, ← hr, mul_comm b' b]
  exact sdiv_mono (mul_pos hb hb') (by linarith)

/-! ## The dew-point chain is monotone (R86 to R90) -/

/-- Step 4 rises with T, where the divisor is positive. -/
theorem dewM_mono {T T' : Int} (hS : 0 < Config.dewA + T) (h : T ≤ T') : dewM T ≤ dewM T' := by
  refine sdiv_le_sdiv_of_cross hS (by omega) ?_
  have hBA : 0 ≤ Config.dewB * Config.dewA := by decide
  linarith [mul_le_mul_of_nonneg_left h hBA]

/-- Step 5 rises with T and with the logarithm. -/
theorem dewG_mono {T T' ln ln' : Int} (hS : 0 < Config.dewA + T) (h : T ≤ T') (hln : ln ≤ ln') :
    dewG T ln ≤ dewG T' ln' :=
  add_le_add hln (dewM_mono hS h)

/-- Step 6 rises with T and with the logarithm, where both divisors are positive. -/
theorem dewQ16_mono {T T' ln ln' : Int} (hS : 0 < Config.dewA + T) (hD : dewG T' ln' < Config.dewB) (h : T ≤ T')
    (hln : ln ≤ ln') : dewQ16 T ln ≤ dewQ16 T' ln' := by
  have hG := dewG_mono hS h hln
  refine sdiv_le_sdiv_of_cross (by omega) (by omega) ?_
  have hAB : 0 ≤ Config.dewA * Config.dewB := by decide
  linarith [mul_le_mul_of_nonneg_left hG hAB]

/-! ## The range of the dew point of a selectable value -/

/-- The range of the Q16 Celsius temperature (R67). -/
theorem tempQ16_range (t : U16) : -2621440 ≤ tempQ16 t ∧ tempQ16 t ≤ 8191835 := by
  have ht := raw_lt t
  rw [tempQ16_eq]
  omega

/-- The divisor of step 4 is positive (R97). -/
theorem dewS_pos (t : U16) : 0 < Config.dewA + tempQ16 t := by
  obtain ⟨hlo, -⟩ := tempQ16_range t
  have hA : Config.dewA = 15927869 := rfl
  omega

/-- With a logarithm of at most 0, step 5 is at most its value at the highest temperature (R95). -/
theorem dewG_le {ln : Int} (t : U16) (hln : ln ≤ 0) : dewG (tempQ16 t) ln ≤ 392299 := by
  have hmax : dewG 8191835 0 = 392299 := by decide
  exact hmax ▸ dewG_mono (dewS_pos t) (tempQ16_range t).2 hln

/-- The Q16 Celsius dew point of a value of at most 0 lies between its values at the two corners (R95). -/
theorem dewOf_range (t : U16) {v : Word32} (hv : v.toInt ≤ 0) : -15919307 ≤ dewOf t v ∧ dewOf t v ≤ 8191804 := by
  obtain ⟨hlo, hhi⟩ := tempQ16_range t
  have hB : Config.dewB = 1155072 := rfl
  have hmin : dewQ16 (-2621440) (-2147483648) = -15919307 := by decide
  have hmax : dewQ16 8191835 0 = 8191804 := by decide
  have hG := dewG_le t hv
  constructor
  · have hvlo : -2147483648 ≤ v.toInt := BitVec.le_toInt v
    exact hmin ▸ dewQ16_mono (by decide) (by omega) hlo hvlo
  · exact hmax ▸ dewQ16_mono (dewS_pos t) (by decide) hhi hv

/-! ## A hit selects an entry after the first (R75, R78) -/

/-- A hit of the search that began at bucket `k` is a bucket of the list, its index counted from `k`. -/
theorem scanBuckets_hit {h : U16} {i : Nat} : ∀ {l : List LutEntry} {k : Nat}, scanBuckets h k l = .hit i →
    ∃ j lo hi, i = k + j ∧ l[j]? = some lo ∧ l[j + 1]? = some hi ∧ lo.operand < h ∧ h ≤ hi.operand
  | [], _, hs => by cases hs
  | [_], _, hs => by cases hs
  | lo :: hi :: rest, k, hs => by
    rw [scanBuckets] at hs
    split at hs
    next hb =>
      cases hs
      exact ⟨0, lo, hi, rfl, rfl, rfl, hb.1, hb.2⟩
    next =>
      obtain ⟨j, a, b, rfl, ha, hb, hlt, hle⟩ := scanBuckets_hit hs
      exact ⟨j + 1, a, b, by omega, ha, hb, hlt, hle⟩

/-- Under LutWF the value a hit selects is at most 0 (W5). -/
theorem lutValue_nonpos_of_hit {lut : List LutEntry} {h : U16} {i : Nat} (hw : LutWF lut)
    (hl : lookup lut h = .hit i) : (lutValue lut i).toInt ≤ 0 := by
  obtain ⟨j, lo, hi, rfl, -, hhi, -⟩ := scanBuckets_hit hl
  rw [Nat.add_comm 1 j, lutValue_of_entry hhi]
  exact lut_value_nonpos hw (Nat.le_add_left 1 j) hhi

/-! ## What a command reports of a Q16 quantity -/

/-- A reading of a Q16 quantity: monotone, and within RESULT's 32 bits and R64's bound over the range of every arithmetic command. -/
structure Reading (k : Int → Int) : Prop where
  mono : ∀ {a b}, a ≤ b → k a ≤ k b
  lower : -2147483648 ≤ k (-15919307)
  upper : k 8191835 ≤ 16842455

/-- The Q16 quantity itself. -/
theorem reading_self : Reading (fun q => q) := ⟨id, by decide, by decide⟩

/-- The whole-unit value (R60). -/
theorem reading_whole : Reading whole := ⟨whole_mono, by decide, by decide⟩

/-- The Fahrenheit value (R61). -/
theorem reading_fahrQ16 : Reading fahrQ16 := ⟨fahrQ16_mono, by decide, by decide⟩

/-- The whole-degree Fahrenheit value. -/
theorem reading_whole_fahrQ16 : Reading (fun c => whole (fahrQ16 c)) :=
  ⟨fun h => whole_mono (fahrQ16_mono h), by decide, by decide⟩

section
variable {k : Int → Int} (hk : Reading k) {q : Int} (hlo : -15919307 ≤ q) (hhi : q ≤ 8191835)
include hk hlo hhi

/-- RESULT holds a reading as it is. -/
theorem toInt_toResult_reading : (toResult (k q)).toInt = k q := by
  have h1 := hk.mono hlo
  have h2 := hk.mono hhi
  have h3 := hk.lower
  have h4 := hk.upper
  exact toInt_toResult (by omega) (by omega)

/-- A reading in RESULT is at most R64's bound. -/
theorem toInt_toResult_reading_le : (toResult (k q)).toInt ≤ 16842455 := by
  rw [toInt_toResult_reading hk hlo hhi]
  exact (hk.mono hhi).trans hk.upper

end

/-- A temperature command's value is at most R64's bound. -/
theorem ofTemperature_value_le {k : Int → Int} (hk : Reading k) (t h : U16) (lut : List LutEntry) :
    (ofTemperature (fun t => k (tempQ16 t)) t h lut).value.toInt ≤ 16842455 := by
  obtain ⟨hlo, hhi⟩ := tempQ16_range t
  exact toInt_toResult_reading_le hk (by omega) hhi

/-- A humidity command's value is at most R64's bound. -/
theorem ofHumidity_value_le {k : Int → Int} (hk : Reading k) (t h : U16) (lut : List LutEntry) :
    (ofHumidity (fun h => k (rhQ16 h)) t h lut).value.toInt ≤ 16842455 := by
  have hh := raw_lt h
  have hq := rhQ16_eq h
  exact toInt_toResult_reading_le hk (by omega) (by omega)

/-- A dew-point command's value is at most R64's bound, on a hit and on a miss. -/
theorem throughLookup_dew_value_le {k : Int → Int} (hk : Reading k) (t h : U16) {lut : List LutEntry}
    (hw : LutWF lut) : (throughLookup (fun t v => toResult (k (dewOf t v))) t h lut).value.toInt ≤ 16842455 := by
  cases hl : lookup lut h with
  | miss => rw [throughLookup_miss hl]; decide
  | hit i =>
    obtain ⟨hlo, hhi⟩ := dewOf_range t (lutValue_nonpos_of_hit hw hl)
    rw [throughLookup_hit hl]
    exact toInt_toResult_reading_le hk hlo (by omega)

/-- The value of every conversion but LNH, which returns a stored value and computes nothing, is at most 16842455 (R64). -/
theorem conversionOf_value_le {i : Instr} {f : U16 → U16 → List LutEntry → Conversion} (hf : conversionOf i = some f)
    (hne : i ≠ .lnh) (t h : U16) {lut : List LutEntry} (hw : LutWF lut) : (f t h lut).value.toInt ≤ 16842455 := by
  cases i <;> cases hf
  case tcq => exact ofTemperature_value_le reading_self t h lut
  case tc => exact ofTemperature_value_le reading_whole t h lut
  case tfq => exact ofTemperature_value_le reading_fahrQ16 t h lut
  case tf => exact ofTemperature_value_le reading_whole_fahrQ16 t h lut
  case rhq => exact ofHumidity_value_le reading_self t h lut
  case rh => exact ofHumidity_value_le reading_whole t h lut
  case dcq => exact throughLookup_dew_value_le reading_self t h hw
  case dc => exact throughLookup_dew_value_le reading_whole t h hw
  case dfq => exact throughLookup_dew_value_le reading_fahrQ16 t h hw
  case df => exact throughLookup_dew_value_le reading_whole_fahrQ16 t h hw
  case lnh => exact absurd rfl hne

end Sys2Proof.Machine

/-! # The temperature family: TCQ, TC, TFQ and TF (R62 to R66) -/

namespace Sys2Proof.Machine

open Sys2Proof.Claims

/-! ## The printed formulas -/

/-- R59, printed and in the model. -/
theorem celsius_eq_tempQ16 (t : U16) : celsius t.toNat = tempQ16 t := rfl

/-- R60, printed and in the model. -/
theorem units_eq_whole (q : Int) : units q = whole q := (whole_eq q).symm

/-- R61, printed and in the model. -/
theorem fahrenheit_eq_fahrQ16 (c : Int) : fahrenheit c = fahrQ16 c := (fahrQ16_eq c).symm

/-- The whole-degree Celsius value rises with TRAW. -/
theorem units_celsius_mono {t t' : Nat} (h : t ≤ t') : units (celsius t) ≤ units (celsius t') := by
  rw [units_eq_whole, units_eq_whole]
  exact whole_mono (by unfold celsius; omega)

/-- The Q16 Celsius value is a multiple of 5, because the slope and the offset are. -/
theorem five_dvd_celsius (t : Nat) : (5 : Int) ∣ celsius t := by
  unfold celsius; omega

/-- The Q16 Fahrenheit value, its division being exact: `165 * 9 / 5 = 297`, and -40 degrees is the same in both units. -/
theorem fahrQ16_tempQ16 (t : U16) : fahrQ16 (tempQ16 t) = (t.toNat : Int) * 297 - 2621440 := by
  have h9 : tempQ16 t * 9 = 5 * ((t.toNat : Int) * 297 - 4718592) := by rw [tempQ16_eq]; ring
  rw [fahrQ16_eq, h9, Int.mul_tdiv_cancel_left _ (by decide)]
  ring

/-! ## What the commands do -/

/-- The word of a conversion command and its two faults (R44, R102, R103). -/
theorem commandWord_of_mem {i : Instr} (hi : i ∈ conversionCommands) : CommandWord i i.opcode (encode i) := by
  obtain ⟨harg, hop⟩ := argument_and_opcode_of_mem i hi
  refine ⟨rfl, opField_encode i, (argField_encode i).trans harg, fun s ⟨hw, he⟩ hv => ?_,
    fun s rest w' ⟨hw, he⟩ ho ha hp => ?_⟩
  · rw [exec_of_no_sample (isConversion_of_mem i hi) hw he hv]
    exact raises_raise .noSample he
  · exact step_illegal_raises hp hw he ⟨_, decode_of_nonzero_arg (ho ▸ hop) ha⟩

/-- A conversion in a ready engine completes with its function's value and flag, and with the frame (R51 step 4). -/
theorem completes_of_ready {i : Instr} {f : U16 → U16 → List LutEntry → Conversion} (hf : conversionOf i = some f)
    {s : State} (hr : Ready s) :
    Completes i s (f s.traw s.hraw s.lut).value.toInt (f s.traw s.hraw s.lut).miss :=
  ⟨_, exec_eq_latch hf hr, rfl, latch_rv _ s, latch_miss _ s, latch_sv _ s, latch_err _ s, latch_cause _ s, rfl, rfl,
    rfl, rfl⟩

section
variable {i : Instr} {k : Int → Int} (hk : Reading k)
  (hf : conversionOf i = some (ofTemperature fun t => k (tempQ16 t)))
include hk hf

/-- A temperature command completes with its reading of the Q16 Celsius value, and with MISS 0. -/
theorem completes_temperature {s : State} (hr : Ready s) : Completes i s (k (tempQ16 s.traw)) false := by
  obtain ⟨hlo, hhi⟩ := tempQ16_range s.traw
  rw [← toInt_toResult_reading hk (by omega) hhi]
  exact completes_of_ready hf hr

end

/-- Each temperature command is a reading of the Q16 Celsius value. -/
theorem exists_reading_of_mem {i : Instr} (hi : i ∈ temperatureCommands) :
    ∃ k, Reading k ∧ conversionOf i = some (ofTemperature fun t => k (tempQ16 t)) := by
  simp only [temperatureCommands, List.mem_cons, List.not_mem_nil, or_false] at hi
  obtain rfl | rfl | rfl | rfl := hi
  · exact ⟨_, reading_whole, rfl⟩
  · exact ⟨_, reading_self, rfl⟩
  · exact ⟨_, reading_whole_fahrQ16, rfl⟩
  · exact ⟨_, reading_fahrQ16, rfl⟩

/-- Two completed conversions, with a relation between their values. -/
theorem exists_results_of_completes {i : Instr} {s s' : State} {v v' : Int} {m m' : Bool} {r : Int → Int → Prop}
    (h : Completes i s v m) (h' : Completes i s' v' m') (hr : r v v') :
    ∃ t t', exec i s = .next t ∧ exec i s' = .next t' ∧ r t.result.toInt t'.result.toInt := by
  obtain ⟨t, hx, rfl, -⟩ := h
  obtain ⟨t', hx', rfl, -⟩ := h'
  exact ⟨t, t', hx, hx', hr⟩

/-! ## The obligations -/

/-- Settles O24: the command reads the Q16 Celsius value itself; it is nonzero because 165 does not divide 2621440. -/
theorem tcqComputesCelsiusQ16 : Obligations.TcqComputesCelsiusQ16 := by
  refine ⟨commandWord_of_mem (by decide), fun s hr => completes_temperature reading_self rfl hr, by decide, by decide,
    by decide, fun t => ?_⟩
  unfold celsius; omega

/-- Settles O25: the value's bounds are those of the ends of each interval of TRAW, because it is monotone. -/
theorem tcComputesCelsiusWhole : Obligations.TcComputesCelsiusWhole := by
  have h0 : units (celsius 0) = -40 := by decide
  have h1 : units (celsius 1) = -39 := by decide
  have hmax : units (celsius 65535) = 124 := by decide
  have hzlo : units (celsius 15491) = 0 := by decide
  have hzhi : units (celsius 16284) = 0 := by decide
  refine ⟨commandWord_of_mem (by decide), fun s hr => ?_, by decide, fun t ht => ⟨fun h => ?_, fun h => h ▸ h0⟩,
    fun t ht h => ?_, fun t hlo hhi => ?_⟩
  · rw [celsius_eq_tempQ16, units_eq_whole]
    exact completes_temperature reading_whole rfl hr
  · by_contra hne
    have := units_celsius_mono (Nat.one_le_iff_ne_zero.mpr hne)
    omega
  · have := units_celsius_mono ht
    omega
  · have := units_celsius_mono hlo
    have := units_celsius_mono hhi
    omega

/-- Settles O26: the command reads the Fahrenheit value; the bound is `conversionOf_value_le`, and the division is exact because 5 divides the Celsius value. -/
theorem tfqComputesFahrenheitQ16 : Obligations.TfqComputesFahrenheitQ16 := by
  refine ⟨commandWord_of_mem (by decide), fun s hr => ?_, by decide, by decide, fun s hr i hi hne => ?_, fun t =>
    ⟨five_dvd_celsius t, Int.tdiv_mul_cancel ((five_dvd_celsius t).mul_right 9)⟩⟩
  · rw [celsius_eq_tempQ16, fahrenheit_eq_fahrQ16]
    exact completes_temperature reading_fahrQ16 rfl hr
  · obtain ⟨f, hf⟩ := conversionOf_of_isConversion (isConversion_of_mem i hi)
    have hx := exec_eq_latch hf hr
    obtain ⟨⟨hw, -⟩, -⟩ := hr
    exact ⟨_, hx, conversionOf_value_le hf hne _ _ hw⟩

/-- Settles O27: the command reads the whole value of the Q16 Fahrenheit value. -/
theorem tfComputesFahrenheitWhole : Obligations.TfComputesFahrenheitWhole := by
  refine ⟨commandWord_of_mem (by decide), fun s hr => ?_, by decide, by decide⟩
  rw [celsius_eq_tempQ16, fahrenheit_eq_fahrQ16, units_eq_whole]
  exact completes_temperature reading_whole_fahrQ16 rfl hr

/-- Settles O28: the Q16 Celsius value rises with TRAW and every command is a monotone reading of it; the Q16 values rise by 165 and by 297. -/
theorem temperatureCommandsMonotone : Obligations.TemperatureCommandsMonotone := by
  refine ⟨fun s s' hr hr' ht i hi => ?_, fun s s' hr hr' ht i hi => ?_⟩
  · obtain ⟨k, hk, hf⟩ := exists_reading_of_mem hi
    have hT : tempQ16 s.traw ≤ tempQ16 s'.traw := by
      rw [tempQ16_eq, tempQ16_eq]; rw [BitVec.le_def] at ht; omega
    exact exists_results_of_completes (completes_temperature hk hf hr) (completes_temperature hk hf hr') (hk.mono hT)
  · rw [BitVec.lt_def] at ht
    simp only [List.mem_cons, List.not_mem_nil, or_false] at hi
    obtain rfl | rfl := hi
    · refine exists_results_of_completes (completes_temperature reading_self rfl hr)
        (completes_temperature reading_self rfl hr') ?_
      rw [tempQ16_eq, tempQ16_eq]; omega
    · refine exists_results_of_completes (completes_temperature reading_fahrQ16 rfl hr)
        (completes_temperature reading_fahrQ16 rfl hr') ?_
      rw [fahrQ16_tempQ16, fahrQ16_tempQ16]; omega

end Sys2Proof.Machine

/-! # The temperature family: ranges and the 32-bit datapath (R67), and the Fahrenheit value against the Celsius one (R68) -/

namespace Sys2Proof.Machine

/-! ## The 32-bit datapath computes what RESULT takes -/

/-- The Q16 Celsius value in 32-bit words. -/
theorem tempWord32_eq_toResult (t : U16) : tempWord32 t = toResult (tempQ16 t) := by
  rw [toResult, tempQ16_eq, sub_eq_add_neg, BitVec.ofInt_add, BitVec.ofInt_mul, BitVec.ofInt_natCast,
    BitVec.ofNat_toNat, BitVec.ofInt_neg, ← BitVec.sub_eq_add_neg]
  rfl

/-- Division of 32-bit words is the integers' truncating division. -/
theorem sdiv_eq_toResult (a b : Word32) : a.sdiv b = toResult (a.toInt.tdiv b.toInt) := by
  apply BitVec.eq_of_toInt_eq
  rw [BitVec.toInt_sdiv, toResult, BitVec.toInt_ofInt]

/-- The whole-unit value of a 32-bit word. -/
theorem wholeWord32_toResult {q : Int} (h1 : -2147483648 ≤ q) (h2 : q ≤ 2147483647) :
    wholeWord32 (toResult q) = toResult (whole q) := by
  rw [wholeWord32, sdiv_eq_toResult, toInt_toResult h1 h2, whole_eq]
  rfl

/-- The Fahrenheit value of a 32-bit word, while the product by 9 fits. -/
theorem fahrWord32_toResult {c : Int} (h1 : -2147483648 ≤ c * 9) (h2 : c * 9 ≤ 2147483647) :
    fahrWord32 (toResult c) = toResult (fahrQ16 c) := by
  have hmul : toResult c * 9#32 = toResult (c * 9) := (BitVec.ofInt_mul c 9).symm
  rw [fahrWord32, hmul, sdiv_eq_toResult, toInt_toResult h1 h2, fahrQ16_eq]
  exact (BitVec.ofInt_add _ 2097152).symm

/-- Settles O29: the ranges are the values at the ends of TRAW, and within them no 32-bit word wraps. -/
theorem temperatureRanges : Obligations.TemperatureRanges := by
  intro t
  have ht := raw_lt t
  obtain ⟨hlo, hhi⟩ := tempQ16_range t
  have hF := fahrQ16_tempQ16 t
  have hdiv : fahrQ16 (tempQ16 t) = sdiv (tempQ16 t * 9) 5 + 2097152 := rfl
  have hFlo : -2621440 ≤ fahrQ16 (tempQ16 t) := by omega
  have hFhi : fahrQ16 (tempQ16 t) ≤ 16842455 := by omega
  have hmin : whole (-2621440) = -40 := by decide
  have hCmax : whole 8191835 = 124 := by decide
  have hFmax : whole 16842455 = 256 := by decide
  have hfahr := fahrWord32_toResult (c := tempQ16 t) (by omega) (by omega)
  refine ⟨by omega, ⟨hlo, hhi⟩, ⟨hmin ▸ whole_mono hlo, hCmax ▸ whole_mono hhi⟩, by omega, by omega, ⟨hFlo, hFhi⟩,
    ⟨hmin ▸ whole_mono hFlo, hFmax ▸ whole_mono hFhi⟩, ?_, ?_, ?_, ?_⟩
  · rw [tempWord32_eq_toResult]
    exact toInt_toResult_reading reading_self (by omega) hhi
  · rw [tempWord32_eq_toResult, wholeWord32_toResult (by omega) (by omega)]
    exact toInt_toResult_reading reading_whole (by omega) hhi
  · rw [tempWord32_eq_toResult, hfahr]
    exact toInt_toResult_reading reading_fahrQ16 (by omega) hhi
  · rw [tempWord32_eq_toResult, hfahr, wholeWord32_toResult (by omega) (by omega)]
    exact toInt_toResult_reading reading_whole_fahrQ16 (by omega) hhi

/-! ## The error of truncation (R68) -/

/-- The whole-unit value is off by less than one unit. -/
theorem abs_whole_mul_sub_lt (q : Int) : |whole q * 65536 - q| < 65536 := by
  rw [abs_lt]
  rcases le_total 0 q with hq | hq
  · rw [whole, sdiv_of_nonneg hq (by decide), Config.q16One]; omega
  · rw [whole, sdiv_of_nonpos hq (by decide), Config.q16One]; omega

/-- The Q16 Fahrenheit value is the exact one for every TRAW: five times it has no division left. -/
theorem fahrQ16_tempQ16_mul_five (t : U16) : fahrQ16 (tempQ16 t) * 5 = tempQ16 t * 9 + 2097152 * 5 := by
  rw [fahrQ16_tempQ16, tempQ16_eq]; ring

/-- TF less the Fahrenheit value of the whole-degree TC (R68). -/
def wholeDifference (t : U16) : Int := whole (fahrQ16 (tempQ16 t)) - (sdiv (whole (tempQ16 t) * 9) 5 + 32)

/-- In floor form the three truncations are linear; the cases are the signs of the Celsius and the Fahrenheit value, which the truncations follow. -/
theorem wholeDifference_range (t : U16) : -3 ≤ wholeDifference t ∧ wholeDifference t ≤ 2 := by
  have hF := fahrQ16_tempQ16_mul_five t
  have h65536 : Config.q16One = 65536 := rfl
  rw [wholeDifference, whole, whole, h65536]
  generalize fahrQ16 (tempQ16 t) = F at hF ⊢
  generalize tempQ16 t = T at hF ⊢
  rcases le_total 0 T with hT | hT
  · have hC : 0 ≤ T / 65536 * 9 := by omega
    rw [sdiv_of_nonneg (by omega : 0 ≤ F) (by decide), sdiv_of_nonneg hT (by decide), sdiv_of_nonneg hC (by decide)]
    omega
  · have hC : -(-T / 65536) * 9 ≤ 0 := by omega
    rw [sdiv_of_nonpos hT (by decide), sdiv_of_nonpos hC (by decide)]
    rcases le_total 0 F with hF0 | hF0
    · rw [sdiv_of_nonneg hF0 (by decide)]
      omega
    · rw [sdiv_of_nonpos hF0 (by decide)]
      omega

/-- Every difference from -3 to 2 is taken. -/
theorem exists_wholeDifference_eq {d : Int} (hlo : -3 ≤ d) (hhi : d ≤ 2) : ∃ t, wholeDifference t = d := by
  interval_cases d
  · exact ⟨9136#16, by decide⟩
  · exact ⟨398#16, by decide⟩
  · exact ⟨1#16, by decide⟩
  · exact ⟨0#16, by decide⟩
  · exact ⟨16109#16, by decide⟩
  · exact ⟨16550#16, by decide⟩

/-- Settles O30: the Q16 Fahrenheit value is exact, so TF is off by its own truncation only; the whole-degree reading is off by up to three truncations. -/
theorem fahrenheitAgreesWithExactCelsius : Obligations.FahrenheitAgreesWithExactCelsius := by
  refine ⟨fun t => ?_, wholeDifference_range, fun d => exists_wholeDifference_eq, by decide, by decide⟩
  have hF := fahrQ16_tempQ16_mul_five t
  have herr := abs_whole_mul_sub_lt (fahrQ16 (tempQ16 t))
  rw [abs_lt] at herr ⊢
  omega

end Sys2Proof.Machine

/-! # The humidity family: RHQ and RH (R70, R71), their ranges and the 32-bit datapath (R72, R73) -/

namespace Sys2Proof.Machine

open Sys2Proof.Claims

/-! ## The Q16 humidity and its whole percent -/

/-- The range of the Q16 humidity (R72). -/
theorem rhQ16_range (h : U16) : 0 ≤ rhQ16 h ∧ rhQ16 h ≤ 6553500 := by
  have hh := raw_lt h
  rw [rhQ16_eq]
  omega

/-- The range of the whole percent (R72): it never reaches 100 (R73). -/
theorem whole_rhQ16_range (h : U16) : 0 ≤ whole (rhQ16 h) ∧ whole (rhQ16 h) ≤ 99 := by
  obtain ⟨hlo, hhi⟩ := rhQ16_range h
  have hmin : whole 0 = 0 := by decide
  have hmax : whole 6553500 = 99 := by decide
  exact ⟨hmin ▸ whole_mono hlo, hmax ▸ whole_mono hhi⟩

/-- The Q16 humidity is strictly monotone in HRAW. -/
theorem rhQ16_lt_of_lt {h h' : U16} (hlt : h < h') : rhQ16 h < rhQ16 h' := by
  rw [BitVec.lt_def] at hlt
  rw [rhQ16_eq, rhQ16_eq]
  omega

/-- The Q16 humidity is monotone in HRAW. -/
theorem rhQ16_mono {h h' : U16} (hle : h ≤ h') : rhQ16 h ≤ rhQ16 h' := by
  rw [BitVec.le_def] at hle
  rw [rhQ16_eq, rhQ16_eq]
  omega

/-- Of a quantity that is not negative the whole-unit value is the floor (R71). -/
theorem units_natCast (q : Nat) : units q = ((q / 65536 : Nat) : Int) := by
  rw [units_eq_whole, whole, sdiv_of_nonneg (Int.natCast_nonneg q) (by decide)]
  rfl

/-- The Q16 humidity in 32-bit words. -/
theorem rhWord32_eq_toResult (h : U16) : rhWord32 h = toResult (rhQ16 h) := by
  rw [toResult, rhQ16_eq, BitVec.ofInt_mul, BitVec.ofInt_natCast, BitVec.ofNat_toNat]
  rfl

/-! ## What the commands do -/

section
variable {k : Int → Int} (hk : Reading k)
include hk

/-- RESULT holds a reading of the Q16 humidity as it is. -/
theorem toInt_toResult_reading_rhQ16 (h : U16) : (toResult (k (rhQ16 h))).toInt = k (rhQ16 h) := by
  obtain ⟨hlo, hhi⟩ := rhQ16_range h
  exact toInt_toResult_reading hk (by omega) (by omega)

/-- A humidity command completes with its reading of the Q16 humidity, and with MISS 0. -/
theorem completes_humidity {i : Instr} (hf : conversionOf i = some (ofHumidity fun h => k (rhQ16 h))) {s : State}
    (hr : Ready s) : Completes i s (k (rhQ16 s.hraw)) false := by
  rw [← toInt_toResult_reading_rhQ16 hk]
  exact completes_of_ready hf hr

end

/-- Each humidity command is a reading of the Q16 humidity. -/
theorem exists_reading_of_mem_humidityCommands {i : Instr} (hi : i ∈ humidityCommands) :
    ∃ k, Reading k ∧ conversionOf i = some (ofHumidity fun h => k (rhQ16 h)) := by
  simp only [humidityCommands, List.mem_cons, List.not_mem_nil, or_false] at hi
  obtain rfl | rfl := hi
  · exact ⟨_, reading_whole, rfl⟩
  · exact ⟨_, reading_self, rfl⟩

/-! ## The obligations -/

/-- Settles O31: the command reads the Q16 humidity itself. -/
theorem rhqComputesHumidityQ16 : Obligations.RhqComputesHumidityQ16 :=
  ⟨commandWord_of_mem (by decide), fun _ hr => completes_humidity reading_self rfl hr, by decide, by decide, by decide⟩

/-- Settles O32: the command reads the whole percent, a floor because the humidity is not negative, and a floor by `2 ^ 16` is a shift. -/
theorem rhComputesHumidityWhole : Obligations.RhComputesHumidityWhole := by
  refine ⟨commandWord_of_mem (by decide), fun s hr => ?_, fun h => ⟨units_natCast (h * 100), ?_⟩, by decide⟩
  · rw [units_eq_whole]
    exact completes_humidity reading_whole rfl hr
  · exact (Nat.shiftRight_eq_div_pow (h * 100) 16).symm

/-- Settles O33: the ranges are the values at the ends of HRAW, and both commands are monotone readings of a strictly monotone value. -/
theorem humidityRanges : Obligations.HumidityRanges := by
  refine ⟨fun h => ?_, fun s s' hr hr' hle i hi => ?_, fun s s' hr hr' hlt => ?_, fun s hr => ?_⟩
  · obtain ⟨hlo, hhi⟩ := rhQ16_range h
    obtain ⟨hwlo, hwhi⟩ := whole_rhQ16_range h
    refine ⟨hlo, hhi, by omega, hwlo, hwhi, ?_⟩
    rw [rhWord32_eq_toResult]
    exact toInt_toResult_reading_rhQ16 reading_self h
  · obtain ⟨k, hk, hf⟩ := exists_reading_of_mem_humidityCommands hi
    exact exists_results_of_completes (completes_humidity hk hf hr) (completes_humidity hk hf hr')
      (hk.mono (rhQ16_mono hle))
  · exact exists_results_of_completes (completes_humidity reading_self rfl hr) (completes_humidity reading_self rfl hr')
      (rhQ16_lt_of_lt hlt)
  · obtain ⟨hlo, hhi⟩ := whole_rhQ16_range s.hraw
    obtain ⟨t, hx, hv, -⟩ := completes_humidity reading_whole (i := .rh) rfl hr
    exact ⟨t, hx, by omega, by omega, by omega⟩

end Sys2Proof.Machine

/-! # The lookup family (spec/43_ln_lookup.md): the lookup answers the bucket (R75), the buckets partition the range (R76), the miss cases (R77) -/

namespace Sys2Proof.Machine

open Sys2Proof.Claims

/-! ## The buckets of a well-formed table (R76) -/

section
variable {lut : List LutEntry} (hw : LutWF lut)
include hw

/-- W2 in its weak form: operands do not decrease with the index. -/
theorem lut_operand_le {i j : Nat} {a b : LutEntry} (hij : i ≤ j) (ha : lut[i]? = some a) (hb : lut[j]? = some b) :
    a.operand ≤ b.operand := by
  obtain rfl | hlt := hij.eq_or_lt
  · rw [ha] at hb
    cases hb
    exact BitVec.le_refl _
  · exact BitVec.le_of_lt (lut_operand_lt hw hlt ha hb)

/-- Two neighbouring entries with `h` between their operands make the bucket of the upper one. -/
theorem inBucket_of_entries {h : U16} {j : Nat} {lo hi : LutEntry} (hlo : lut[j]? = some lo)
    (hhi : lut[j + 1]? = some hi) (hlt : lo.operand < h) (hle : h ≤ hi.operand) : InBucket lut h (j + 1) :=
  ⟨Nat.le_add_left 1 j, lut_index_le hw hhi, lo, hi, hlo, hhi, hlt, hle⟩

/-- An operand belongs to the bucket that ends at it. -/
theorem inBucket_operand {i : Nat} {e : LutEntry} (hi : 1 ≤ i) (he : lut[i]? = some e) : InBucket lut e.operand i := by
  obtain ⟨j, rfl⟩ := Nat.exists_eq_add_of_le' hi
  have hj := lut_index_le hw he
  obtain ⟨lo, hlo⟩ := lut_entry_exists hw (i := j) (by omega)
  exact inBucket_of_entries hw hlo he (lut_operand_lt hw (Nat.lt_succ_self j) hlo he) (BitVec.le_refl _)

/-- The number after an operand belongs to the bucket that begins at it. -/
theorem inBucket_operand_add_one {i : Nat} {e : LutEntry} (hi : i < 100) (he : lut[i]? = some e) :
    InBucket lut (e.operand + 1#16) (i + 1) := by
  obtain ⟨e', he'⟩ := lut_entry_exists hw (i := i + 1) hi
  have hlt := lut_operand_lt hw (Nat.lt_succ_self i) he he'
  exact inBucket_of_entries hw he he' (by bv_omega) (by bv_omega)

/-- The bucket's index does not decrease with the raw humidity. -/
theorem inBucket_index_mono {h h' : U16} {i j : Nat} (hh : h ≤ h') (hi : InBucket lut h i) (hj : InBucket lut h' j) :
    i ≤ j := by
  by_contra hlt
  obtain ⟨-, -, lo, -, hlo, -, hlo_lt, -⟩ := hi
  obtain ⟨-, -, -, hi', -, hhi', -, hle⟩ := hj
  have hedges : hi'.operand ≤ lo.operand := lut_operand_le hw (by omega) hhi' hlo
  bv_omega

/-- No raw humidity lies in two buckets. -/
theorem inBucket_unique {h : U16} {i j : Nat} (hi : InBucket lut h i) (hj : InBucket lut h j) : i = j :=
  le_antisymm (inBucket_index_mono hw (BitVec.le_refl h) hi hj) (inBucket_index_mono hw (BitVec.le_refl h) hj hi)

/-- The first `n` buckets cover everything above entry 0's operand up to entry `n`'s. -/
theorem exists_inBucket_of_le {h : U16} {first : LutEntry} (h0 : lut[0]? = some first) (hlt : first.operand < h) :
    ∀ {n : Nat} {e : LutEntry}, lut[n]? = some e → h ≤ e.operand → ∃ i, InBucket lut h i
  | 0, e, he, hle => by
    rw [h0] at he
    cases he
    exact absurd hlt (BitVec.not_lt.mpr hle)
  | n + 1, e, he, hle => by
    have hn := lut_index_le hw he
    obtain ⟨lo, hlo⟩ := lut_entry_exists hw (i := n) (by omega)
    by_cases hb : h ≤ lo.operand
    · exact exists_inBucket_of_le h0 hlt hlo hb
    · exact ⟨n + 1, inBucket_of_entries hw hlo he (BitVec.not_le.mp hb) hle⟩

/-- The buckets together cover exactly the interval above entry 0's operand up to entry 100's. -/
theorem exists_inBucket_iff {h : U16} {first last : LutEntry} (h0 : lut[0]? = some first)
    (h100 : lut[100]? = some last) : (∃ i, InBucket lut h i) ↔ first.operand < h ∧ h ≤ last.operand := by
  refine ⟨fun ⟨i, _, hi, lo, hi', hlo, hhi, hlt, hle⟩ => ?_, fun ⟨hlt, hle⟩ => exists_inBucket_of_le hw h0 hlt h100 hle⟩
  have hfirst := lut_operand_le hw (Nat.zero_le _) h0 hlo
  have hlast := lut_operand_le hw hi hhi h100
  exact ⟨by bv_omega, by bv_omega⟩

end

/-! ## The search finds the bucket (R75) -/

/-- A search that misses has seen no bucket. -/
theorem scanBuckets_miss {h : U16} : ∀ {l : List LutEntry} {k : Nat}, scanBuckets h k l = .miss →
    ∀ {j : Nat} {lo hi : LutEntry}, l[j]? = some lo → l[j + 1]? = some hi → ¬ (lo.operand < h ∧ h ≤ hi.operand)
  | lo :: hi :: rest, k, hs, j, a, b, ha, hb => by
    rw [scanBuckets] at hs
    split at hs
    next => cases hs
    next hno =>
      cases j with
      | zero => cases ha; cases hb; exact hno
      | succ j => exact scanBuckets_miss hs ha hb

/-- A hit's index is at least 1, whatever the table (R78). -/
theorem one_le_of_lookup_hit {lut : List LutEntry} {h : U16} {i : Nat} (hl : lookup lut h = .hit i) : 1 ≤ i := by
  obtain ⟨j, -, -, rfl, -⟩ := scanBuckets_hit hl
  exact Nat.le_add_right 1 j

section
variable {lut : List LutEntry} (hw : LutWF lut)
include hw

/-- A hit is a bucket of the raw humidity. -/
theorem inBucket_of_lookup_hit {h : U16} {i : Nat} (hl : lookup lut h = .hit i) : InBucket lut h i := by
  obtain ⟨j, lo, hi, rfl, hlo, hhi, hlt, hle⟩ := scanBuckets_hit hl
  rw [Nat.add_comm 1 j]
  exact inBucket_of_entries hw hlo hhi hlt hle

/-- A raw humidity with a bucket hits it. -/
theorem lookup_eq_hit_of_inBucket {h : U16} {i : Nat} (hb : InBucket lut h i) : lookup lut h = .hit i := by
  cases hl : lookup lut h with
  | hit k => rw [inBucket_unique hw (inBucket_of_lookup_hit hw hl) hb]
  | miss =>
    obtain ⟨h1, -, lo, hi, hlo, hhi, hlt, hle⟩ := hb
    rw [← Nat.sub_add_cancel h1] at hhi
    exact absurd ⟨hlt, hle⟩ (scanBuckets_miss hl hlo hhi)

/-- The lookup hits exactly the bucket. -/
theorem lookup_eq_hit_iff {h : U16} {i : Nat} : lookup lut h = .hit i ↔ InBucket lut h i :=
  ⟨inBucket_of_lookup_hit hw, lookup_eq_hit_of_inBucket hw⟩

/-- The lookup misses exactly when there is no bucket. -/
theorem lookup_eq_miss_iff {h : U16} : lookup lut h = .miss ↔ ¬ ∃ i, InBucket lut h i := by
  simp only [← lookup_eq_hit_iff hw]
  cases lookup lut h with
  | hit k => simp
  | miss => simp

/-- The lookup misses exactly outside the interval that the buckets cover (R77). -/
theorem lookup_eq_miss_iff_outside {h : U16} {first last : LutEntry} (h0 : lut[0]? = some first)
    (h100 : lut[100]? = some last) : lookup lut h = .miss ↔ h ≤ first.operand ∨ last.operand < h := by
  rw [lookup_eq_miss_iff hw, exists_inBucket_iff hw h0 h100, not_and_or, BitVec.not_lt, BitVec.not_le]

/-- By W3 the lookup misses exactly at 0 and above the last operand (R77). -/
theorem lookup_eq_miss_iff_zero_or {h : U16} {last : LutEntry} (h100 : lut[100]? = some last) :
    lookup lut h = .miss ↔ h = 0 ∨ last.operand < h := by
  obtain ⟨first, h0⟩ := lut_entry_exists hw (Nat.zero_le 100)
  rw [lookup_eq_miss_iff_outside hw h0 h100, lut_first_operand hw h0]
  exact or_congr_left BitVec.le_zero_iff

/-- The lookup misses in the statements' miss cases. -/
theorem lookup_eq_miss_of_misses {h : U16} (hm : Misses lut h) : lookup lut h = .miss := by
  obtain ⟨last, h100⟩ := lut_entry_exists hw (le_refl 100)
  refine (lookup_eq_miss_iff_zero_or hw h100).mpr (hm.imp_right fun ⟨e, he, hlt⟩ => ?_)
  rw [h100] at he
  cases he
  exact hlt

end

/-- Settles O34: the search finds the one bucket there is, and an operand ends its own bucket and opens the next. -/
theorem lookupSelectsBucket : Obligations.LookupSelectsBucket := fun _ hw =>
  ⟨fun _ _ => lookup_eq_hit_iff hw, fun _ => (lookup_eq_miss_iff hw).trans not_exists,
    fun _ _ _ _ he => lutValue_of_entry he, fun _ _ hi _ he => lookup_eq_hit_of_inBucket hw (inBucket_operand hw hi he),
    fun _ _ hi he => lookup_eq_hit_of_inBucket hw (inBucket_operand_add_one hw hi he)⟩

/-- Settles O35: bucket `i` holds the operand of entry `i`; the operands' order makes buckets disjoint and their union an interval. -/
theorem bucketsPartitionTheRange : Obligations.BucketsPartitionTheRange := by
  intro lut hw
  obtain ⟨first, h0⟩ := lut_entry_exists hw (Nat.zero_le 100)
  obtain ⟨last, h100⟩ := lut_entry_exists hw (le_refl 100)
  refine ⟨fun i h1 h2 => ?_, fun h i j => inBucket_unique hw, fun h => ?_⟩
  · obtain ⟨e, he⟩ := lut_entry_exists hw h2
    exact ⟨e.operand, inBucket_operand hw h1 he⟩
  · simp [exists_inBucket_iff hw h0 h100, h0, h100]

end Sys2Proof.Machine

/-! # The lookup family: the reference table (R18) and its closed form (R83) -/

namespace Sys2Proof.Machine

/-- The reference table is well formed. -/
theorem lutWF_lutRef : LutWF lutRef := by decide +kernel

/-- Entry `i` of the reference table has operand `655 * i` (R18). -/
theorem lutRef_operand {i : Nat} {e : LutEntry} (he : lutRef[i]? = some e) : e.operand.toNat = 655 * i := by
  have hi := lut_index_le lutWF_lutRef he
  simp only [lutRef, List.getElem?_map, List.getElem?_zipIdx, Option.map_map, Option.map_eq_some_iff] at he
  obtain ⟨v, -, rfl⟩ := he
  simp only [Function.comp_apply, Nat.zero_add, BitVec.toNat_ofNat]
  omega

/-- The lookup in the reference table divides by 655, rounding up (R83). -/
theorem lookup_lutRef {h : U16} (hlo : 1 ≤ h.toNat) (hhi : h.toNat ≤ 65500) :
    lookup lutRef h = .hit ((h.toNat + 654) / 655) := by
  obtain ⟨j, hj⟩ : ∃ j, (h.toNat + 654) / 655 = j + 1 := Nat.exists_eq_add_of_le' (by omega)
  obtain ⟨lo, hlo'⟩ := lut_entry_exists lutWF_lutRef (i := j) (by omega)
  obtain ⟨hi, hhi'⟩ := lut_entry_exists lutWF_lutRef (i := j + 1) (by omega)
  have hlo_eq := lutRef_operand hlo'
  have hhi_eq := lutRef_operand hhi'
  rw [hj]
  refine lookup_eq_hit_of_inBucket lutWF_lutRef (inBucket_of_entries lutWF_lutRef hlo' hhi' ?_ ?_)
  · rw [BitVec.lt_def]; omega
  · rw [BitVec.le_def]; omega

/-- The lookup in the reference table misses exactly at 0 and from 65501 on (R77). -/
theorem lookup_lutRef_eq_miss_iff (h : U16) : lookup lutRef h = .miss ↔ h = 0 ∨ 65501 ≤ h.toNat := by
  obtain ⟨last, h100⟩ := lut_entry_exists lutWF_lutRef (le_refl 100)
  rw [lookup_eq_miss_iff_zero_or lutWF_lutRef h100, BitVec.lt_def, lutRef_operand h100]
  rfl

/-- Settles O36: the lookup misses outside the interval that the buckets cover, whose ends in the reference table are 0 and 65500. -/
theorem lookupMissCases : Obligations.LookupMissCases :=
  ⟨fun _ hw _ _ _ h0 h100 => ⟨lookup_eq_miss_iff_outside hw h0 h100, lookup_eq_miss_iff_zero_or hw h100⟩,
    lookup_lutRef_eq_miss_iff⟩

/-- Settles O39: the closed form, the two ranges of misses, and the examples by the closed form. -/
theorem lutRefLookupClosedForm : Obligations.LutRefLookupClosedForm := by
  refine ⟨fun h => lookup_lutRef, (lookup_lutRef_eq_miss_iff _).mpr (.inl rfl),
    fun h hh => (lookup_lutRef_eq_miss_iff h).mpr (.inr hh), fun p hp => ?_⟩
  have hquot : ∀ p ∈ [(655#16, 1), (656#16, 2), (32750#16, 50), (32751#16, 51), (65500#16, 100)],
      1 ≤ p.1.toNat ∧ p.1.toNat ≤ 65500 ∧ (p.1.toNat + 654) / 655 = p.2 := by decide
  obtain ⟨hlo, hhi, heq⟩ := hquot p hp
  rw [lookup_lutRef hlo hhi, heq]

end Sys2Proof.Machine

/-! # The lookup family: entry 0's value is never read (R78) -/

namespace Sys2Proof.Machine

/-- The table with another value in entry 0. -/
def setSentinel (v : Word32) (lut : List LutEntry) : List LutEntry := lut.modifyHead fun e => { e with value := v }

section
variable (v : Word32)

/-- The operands stay as they are. -/
theorem map_operand_setSentinel (lut : List LutEntry) :
    (setSentinel v lut).map LutEntry.operand = lut.map LutEntry.operand := by
  cases lut <;> rfl

/-- Only entry 0 is replaced. -/
theorem tail_setSentinel (lut : List LutEntry) : (setSentinel v lut).tail = lut.tail := by
  cases lut <;> rfl

/-- LutWF does not bind entry 0's value. -/
theorem lutWF_setSentinel {lut : List LutEntry} (hw : LutWF lut) : LutWF (setSentinel v lut) := by
  obtain ⟨w1, w2, w3, w4, w5⟩ := hw
  refine ⟨(List.length_modifyHead).trans w1, ?_, ?_, ?_, ?_⟩
  · have hc : (lut.map LutEntry.operand).IsChain (· < ·) := (List.isChain_map _).mpr w2
    rw [← map_operand_setSentinel v] at hc
    exact (List.isChain_map _).mp hc
  · rwa [LutW3, ← List.head?_map, map_operand_setSentinel, List.head?_map]
  · rwa [LutW4, tail_setSentinel]
  · rwa [LutW5, tail_setSentinel]

/-- The search reads operands only. -/
theorem lookup_setSentinel (lut : List LutEntry) (h : U16) : lookup (setSentinel v lut) h = lookup lut h := by
  match lut with
  | [] => rfl
  | [_] => rfl
  | _ :: _ :: _ => rfl

/-- The values after entry 0 stay as they are. -/
theorem lutValue_setSentinel (lut : List LutEntry) {i : Nat} (hi : 1 ≤ i) :
    lutValue (setSentinel v lut) i = lutValue lut i := by
  rw [lutValue, lutValue, ← Nat.sub_add_cancel hi, ← List.getElem?_tail, ← List.getElem?_tail, tail_setSentinel]

/-- A conversion through the lookup does not read entry 0's value, because a hit's index is at least 1. -/
theorem throughLookup_setSentinel (g : U16 → Word32 → Word32) (t h : U16) (lut : List LutEntry) :
    throughLookup g t h (setSentinel v lut) = throughLookup g t h lut := by
  have hs := lookup_setSentinel v lut h
  cases hl : lookup lut h with
  | hit i =>
    rw [throughLookup_hit (hs.trans hl), throughLookup_hit hl, lutValue_setSentinel v lut (one_le_of_lookup_hit hl)]
  | miss => rw [throughLookup_miss (hs.trans hl), throughLookup_miss hl]

/-- No conversion reads entry 0's value. -/
theorem conversionOf_setSentinel {i : Instr} {f : U16 → U16 → List LutEntry → Conversion} (hf : conversionOf i = some f)
    (t h : U16) (lut : List LutEntry) : f t h (setSentinel v lut) = f t h lut := by
  cases i <;> cases hf
  case dc | dcq | df | dfq | lnh => exact throughLookup_setSentinel v _ t h lut
  case tc | tcq | tf | tfq | rh | rhq => rfl

/-- Fault entry neither reads nor writes the table. -/
theorem raise_setLut (c : Cause) (lut : List LutEntry) {s : State} (he : s.err = false) :
    raise c { s with lut := lut } = { raise c s with lut := lut } := by
  rw [raise_running c s he]
  exact raise_running c { s with lut := lut } he

/-- Every command answers as before, with the replaced entry in its table. -/
theorem exec_setSentinel {i : Instr} {s t : State} (hx : exec i s = .next t) :
    exec i { s with lut := setSentinel v s.lut } = .next { t with lut := setSentinel v s.lut } := by
  obtain ⟨hw, hcase⟩ := exec_next hx
  have hw' := lutWF_setSentinel v hw
  obtain ⟨he, rfl⟩ | ⟨he, a, rfl, rfl⟩ | ⟨he, hv, hc, rfl⟩ | ⟨he, hv, f, hf, rfl⟩ := hcase
  · exact exec_of_halted i hw' he
  · exact exec_lds_of_running a hw' he
  · exact (exec_of_no_sample (s := { s with lut := setSentinel v s.lut }) hc hw' he hv).trans
      (congrArg _ (raise_setLut _ _ he))
  · rw [← conversionOf_setSentinel v hf]
    exact exec_of_ready hf hw' he hv

end

/-- Settles O37: the search reads operands only and a hit selects an entry after the first, so no case of a command reads entry 0's value. -/
theorem sentinelEntryNeverRead : Obligations.SentinelEntryNeverRead :=
  ⟨fun _ _ _ => one_le_of_lookup_hit, fun _ v _ _ _ => exec_setSentinel v⟩

end Sys2Proof.Machine

/-! # The lookup family: LNH (R81) -/

namespace Sys2Proof.Machine

open Sys2Proof.Claims

/-! ## A command through the lookup -/

/-- The table of a ready engine is well formed. -/
theorem Ready.lutWF {s : State} (hr : Ready s) : LutWF s.lut := by
  obtain ⟨⟨hw, -⟩, -⟩ := hr
  exact hw

section
variable {i : Instr} {g : U16 → Word32 → Word32} (hf : conversionOf i = some (throughLookup g)) {s : State}
  (hr : Ready s)
include hf hr

/-- On a hit the command completes with its function of the selected value, and with MISS 0. -/
theorem completes_of_lookup_hit {k : Nat} (hl : lookup s.lut s.hraw = .hit k) :
    Completes i s (g s.traw (lutValue s.lut k)).toInt false := by
  have hc := completes_of_ready hf hr
  rwa [throughLookup_hit hl] at hc

/-- In the bucket `k` the selected value is that of entry `k`. -/
theorem completes_of_inBucket {k : Nat} {e : LutEntry} (hb : InBucket s.lut s.hraw k) (he : s.lut[k]? = some e) :
    Completes i s (g s.traw e.value).toInt false := by
  rw [← lutValue_of_entry he]
  exact completes_of_lookup_hit hf hr (lookup_eq_hit_of_inBucket hr.lutWF hb)

/-- The hit of a given raw humidity in the reference table. -/
theorem completes_of_lookup_lutRef {h : U16} {k : Nat} (ht : s.lut = lutRef) (hh : s.hraw = h)
    (hl : lookup lutRef h = .hit k) : Completes i s (g s.traw (lutValue lutRef k)).toInt false := by
  rw [← ht]
  exact completes_of_lookup_hit hf hr (by rwa [ht, hh])

/-- In a miss case the command completes with 0, and with MISS 1 (R91). -/
theorem completes_of_misses (hm : Misses s.lut s.hraw) : Completes i s 0 true := by
  have hc := completes_of_ready hf hr
  rwa [throughLookup_miss (lookup_eq_miss_of_misses hr.lutWF hm)] at hc

end

/-- A command through the lookup computes `f` when its function does on every selectable value, which is at most 0 (W5). -/
theorem lookupCommand_of_conversionOf {i : Instr} {g : U16 → Word32 → Word32}
    (hf : conversionOf i = some (throughLookup g)) {f : Nat → Int → Int}
    (hg : ∀ t v, v.toInt ≤ 0 → (g t v).toInt = f t.toNat v.toInt) : LookupCommand i f := by
  refine ⟨fun s k lo hi hr h1 h2 hlo hhi hlt hle => ?_, fun s hr => completes_of_misses hf hr⟩
  rw [← hg s.traw hi.value (lut_value_nonpos hr.lutWF h1 hhi)]
  exact completes_of_inBucket hf hr ⟨h1, h2, lo, hi, hlo, hhi, hlt, hle⟩ hhi

/-! ## The obligation -/

/-- The value of LNH: the selected value itself. -/
theorem conversionOf_lnh : conversionOf .lnh = some (throughLookup fun _ v => v) := rfl

/-- LNH latches a stored value or 0, so at most 0 (W5). -/
theorem lnh_value_nonpos (t h : U16) {lut : List LutEntry} (hw : LutWF lut) :
    (throughLookup (fun _ v => v) t h lut).value.toInt ≤ 0 := by
  cases hl : lookup lut h with
  | hit i =>
    rw [throughLookup_hit hl]
    exact lutValue_nonpos_of_hit hw hl
  | miss =>
    rw [throughLookup_miss hl]
    decide

/-- Raw humidity 1 lies in bucket 1, because entry 0's operand is 0 (W3). -/
theorem inBucket_one {lut : List LutEntry} (hw : LutWF lut) : InBucket lut 1#16 1 := by
  obtain ⟨first, h0⟩ := lut_entry_exists hw (Nat.zero_le 100)
  have hb := inBucket_operand_add_one hw (by decide) h0
  rwa [lut_first_operand hw h0] at hb

/-- Settles O40: LNH is the command through the lookup that returns the stored value; each corner case names a bucket or a miss case. -/
theorem lnhReturnsTableValue : Obligations.LnhReturnsTableValue := by
  refine ⟨commandWord_of_mem (by decide), lookupCommand_of_conversionOf conversionOf_lnh fun _ _ _ => rfl,
    fun s e hr hh he => ?_, fun s e hr he hh => ?_, fun s e hr he hlt hh => ?_, fun s hr => ?_, fun s hr hl hh => ?_,
    fun s hr hl hh => ?_⟩
  · exact completes_of_inBucket conversionOf_lnh hr (hh ▸ inBucket_one hr.lutWF) he
  · exact completes_of_inBucket conversionOf_lnh hr (hh ▸ inBucket_operand hr.lutWF (by decide) he) he
  · exact completes_of_misses conversionOf_lnh hr (.inr ⟨e, he, by bv_omega⟩)
  · exact ⟨_, exec_eq_latch conversionOf_lnh hr, BitVec.le_toInt _, lnh_value_nonpos _ _ hr.lutWF⟩
  · have hv : (lutValue lutRef 51).toInt = -44128 := by decide +kernel
    exact hv ▸ completes_of_lookup_lutRef conversionOf_lnh hr hl hh (lookup_lutRef (by decide) (by decide))
  · have hv : (lutValue lutRef 50).toInt = -45426 := by decide +kernel
    exact hv ▸ completes_of_lookup_lutRef conversionOf_lnh hr hl hh (lookup_lutRef (by decide) (by decide))

end Sys2Proof.Machine

/-! # The dew-point family (spec/44_dew_point.md): the divisors (R97), the product (R86) and the printed formula (R84) -/

namespace Sys2Proof.Machine

open Sys2Proof.Claims

/-! ## The divisors of the chain (R97) -/

/-- The divisor of step 4 is at least its value at the lowest temperature. -/
theorem dewS_ge (t : U16) : 13306429 ≤ Config.dewA + tempQ16 t := by
  obtain ⟨hlo, -⟩ := tempQ16_range t
  have hA : Config.dewA = 15927869 := rfl
  omega

/-- With a logarithm of at most 0, the divisor of step 6 is at least its value at the highest temperature. -/
theorem dewDen_ge {ln : Int} (t : U16) (hln : ln ≤ 0) : 762773 ≤ Config.dewB - dewG (tempQ16 t) ln := by
  have hG := dewG_le t hln
  have hB : Config.dewB = 1155072 := rfl
  omega

/-- A divisor of step 6 that is not positive needs a positive logarithm, out of reach of every table (W5). -/
theorem le_ln_of_dewDen_nonpos {ln : Int} (t : U16) (hD : Config.dewB - dewG (tempQ16 t) ln ≤ 0) : 762773 ≤ ln := by
  have hden := dewDen_ge t (le_refl 0)
  rw [dewG] at hD hden
  omega

/-- Settles O48: `A + T` is least at the lowest temperature and `B - G` at the highest, a selectable value being at most 0. -/
theorem dewDivisorsArePositive : Obligations.DewDivisorsArePositive :=
  ⟨dewS_ge, fun _ hw t _ _ hl => dewDen_ge t (lutValue_nonpos_of_hit hw hl), fun t _ => le_ln_of_dewDen_nonpos t⟩

/-! ## The product of step 2 (R86) -/

/-- Settles O47: the product is linear in TRAW, and changes sign between TRAW 15887 and 15888. -/
theorem temperatureProductNeedsMoreThan32Bits : Obligations.TemperatureProductNeedsMoreThan32Bits := by
  intro t
  have ht := raw_lt t
  have hB : Config.dewB = 1155072 := rfl
  rw [hB, tempQ16_eq, le_abs]
  omega

/-! ## The printed formula (R84) -/

/-- Both divisors are positive, so each division of the chain is truncation toward zero. -/
theorem dewQ16_eq_dewPoint (t : U16) {ln : Int} (hln : ln ≤ 0) : dewQ16 (tempQ16 t) ln = dewPoint (tempQ16 t) ln := by
  have hS := dewS_ge t
  have hD := dewDen_ge t hln
  have hM : dewM (tempQ16 t) = (1155072 * tempQ16 t).tdiv (15927869 + tempQ16 t) := sdiv_of_ne_zero (by omega)
  rw [dewQ16, sdiv_of_ne_zero (by omega), dewG, hM, ← sub_sub]
  rfl

/-- Settles O46: the printed formula is the one that `dewPoint` writes out. -/
theorem dewChainIsPrintedFormula : Obligations.DewChainIsPrintedFormula := fun t _ => dewQ16_eq_dewPoint t

end Sys2Proof.Machine

/-! # The dew-point family: DCQ, DC, DFQ and DF (R92 to R96), and a miss, which is no fault (R91, R106) -/

namespace Sys2Proof.Machine

open Sys2Proof.Claims

/-! ## What the commands do -/

/-- A ready engine is not halted. -/
theorem Ready.err_eq_false {s : State} (hr : Ready s) : s.err = false := by
  obtain ⟨⟨-, he⟩, -⟩ := hr
  exact he

section
variable {i : Instr} {k : Int → Int} (hk : Reading k)
  (hf : conversionOf i = some (throughLookup fun t v => toResult (k (dewOf t v))))
include hk hf

/-- A dew-point command computes its reading of the printed dew point. -/
theorem lookupCommand_dew : LookupCommand i fun t ln => k (dewPoint (celsius t) ln) := by
  refine lookupCommand_of_conversionOf hf fun t v hv => ?_
  obtain ⟨hlo, hhi⟩ := dewOf_range t hv
  rw [toInt_toResult_reading hk hlo (by omega), celsius_eq_tempQ16, ← dewQ16_eq_dewPoint t hv]
  rfl

/-- The worked sample (R92): TRAW 25817 and HRAW 32750 with the reference table have the Q16 Celsius dew point 908140. -/
theorem completes_dew_worked_sample {s : State} (hr : Ready s) (hl : s.lut = lutRef) (ht : s.traw = 25817#16)
    (hh : s.hraw = 32750#16) {v : Int} (hv : k 908140 = v) : Completes i s v false := by
  have hD : dewOf 25817#16 (lutValue lutRef 50) = 908140 := by decide +kernel
  rw [← hv, ← toInt_toResult_reading hk (by decide) (by decide), ← hD, ← ht]
  exact completes_of_lookup_lutRef hf hr hl hh (lookup_lutRef (by decide) (by decide))

end

/-! ## The obligations -/

/-- Settles O41: the command reads the Q16 Celsius dew point itself; the worked chain is evaluated step by step. -/
theorem dcqComputesDewPointQ16 : Obligations.DcqComputesDewPointQ16 := by
  refine ⟨commandWord_of_mem (by decide), lookupCommand_dew reading_self rfl, by decide, by decide, by decide,
    ⟨lookup_lutRef (by decide) (by decide), by decide +kernel, ?_⟩,
    fun s hr hl ht hh => completes_dew_worked_sample reading_self rfl hr hl ht hh rfl⟩
  decide

/-- Settles O42: the command reads the whole value of the Q16 Celsius dew point, which is 0 at both ends of the zero band. -/
theorem dcComputesDewPointWhole : Obligations.DcComputesDewPointWhole := by
  refine ⟨commandWord_of_mem (by decide), ?_, fun D hlo hhi => ?_, by decide,
    fun s hr hl ht hh => completes_dew_worked_sample reading_whole rfl hr hl ht hh (by decide)⟩
  · simp only [units_eq_whole]
    exact lookupCommand_dew reading_whole rfl
  · have hzlo : whole (-65535) = 0 := by decide
    have hzhi : whole 65535 = 0 := by decide
    rw [units_eq_whole]
    exact le_antisymm (hzhi ▸ whole_mono hhi) (hzlo ▸ whole_mono hlo)

/-- Settles O43: the command reads the Fahrenheit value of the Q16 Celsius dew point; a miss is 0 and not 32 degrees, because nothing is converted. -/
theorem dfqComputesDewPointFahrenheitQ16 : Obligations.DfqComputesDewPointFahrenheitQ16 := by
  refine ⟨commandWord_of_mem (by decide), ?_, by decide, by decide, by decide,
    fun s hr hl ht hh => completes_dew_worked_sample reading_fahrQ16 rfl hr hl ht hh (by decide)⟩
  simp only [fahrenheit_eq_fahrQ16]
  exact lookupCommand_dew reading_fahrQ16 rfl

/-- Settles O44: the command reads the whole value of the Q16 Fahrenheit dew point. -/
theorem dfComputesDewPointFahrenheitWhole : Obligations.DfComputesDewPointFahrenheitWhole := by
  refine ⟨commandWord_of_mem (by decide), ?_, by decide,
    fun s hr hl ht hh => completes_dew_worked_sample reading_whole_fahrQ16 rfl hr hl ht hh (by decide)⟩
  simp only [units_eq_whole, fahrenheit_eq_fahrQ16]
  exact lookupCommand_dew reading_whole_fahrQ16 rfl

/-- Settles O45: a lookup command whose lookup misses latches 0 with MISS 1, and a latch keeps the engine ready. -/
theorem missIsResultNotFault : Obligations.MissIsResultNotFault := by
  intro s hr hm i hi
  obtain ⟨hc, hu⟩ := isConversion_and_usesLookup_of_mem i hi
  obtain ⟨f, hf⟩ := conversionOf_of_isConversion hc
  have hmiss : (f s.traw s.hraw s.lut).miss = true := by
    rw [conversionOf_flag hf, hu, Bool.true_and, decide_eq_true_iff]
    exact lookup_eq_miss_of_misses hr.lutWF hm
  have hready := ready_latch (f s.traw s.hraw s.lut) hr
  exact ⟨_, exec_eq_latch hf hr, conversionOf_value_of_miss hf hmiss, (latch_miss _ s).trans hmiss, latch_rv _ s,
    hready.err_eq_false, hready⟩

end Sys2Proof.Machine

/-! # The exceptions family (spec/60_exceptions.md): fault entry (R101), illegal words (R102), NoSample (R103) and their order (R104) -/

namespace Sys2Proof.Machine

open Sys2Proof.Claims

/-! ## Words that are illegal -/

/-- No row of the opcode map has one of the four reserved opcodes (R49). -/
theorem reserved_not_mem_rows : ∀ op ∈ opcodeMap.map OpRow.op, ¬(op = 0x6#4 ∨ op = 0x7#4 ∨ op = 0xE#4 ∨ op = 0xF#4) := by
  decide

/-- A reserved opcode is illegal with any argument (R102). -/
theorem illegal_of_reserved_opcode {w : CmdWord}
    (h : opField w = 0x6#4 ∨ opField w = 0x7#4 ∨ opField w = 0xE#4 ∨ opField w = 0xF#4) : ∃ y, decode w = .illegal y :=
  illegal_of_opField_ne_opcode fun i ho => reserved_not_mem_rows _ (opcode_mem_rows i) (ho ▸ h)

/-! ## Which fault a word raises without a sample -/

/-- The engine after reset accepts commands and holds no sample. -/
theorem accepting_reset_without_sample : Accepting State.reset ∧ State.reset.sv = false :=
  ⟨⟨lutWF_lutRef, by decide⟩, by decide⟩

/-- In an accepting engine without a sample the decoder decides between the two faults (R104). -/
theorem step_fault_without_sample {s : State} {w : CmdWord} {rest : List HostAction} (ha : Accepting s)
    (hv : s.sv = false) (hp : s.port = .issue w :: rest) :
    (∀ y, decode w = .illegal y → Raises (step s) { s with port := rest } 1#2) ∧
    (∀ i ∈ conversionCommands, decode w = .command i → Raises (step s) { s with port := rest } 2#2) := by
  obtain ⟨hw, he⟩ := ha
  exact ⟨fun y hd => step_illegal_raises hp hw he ⟨y, hd⟩,
    fun i hi hd => step_without_sample_raises hp hw he hd (isConversion_of_mem i hi) hv⟩

/-! ## The obligations -/

/-- Settles O17: a fault entered in a running engine writes ERR and CAUSE only, and in a halted one it writes nothing. -/
theorem faultEntryWritesErrAndCause : Obligations.FaultEntryWritesErrAndCause :=
  fun c s => ⟨raises_raise c, raise_halted c s⟩

/-- Settles O15: it is the NoSample clause of what each conversion's word does. -/
theorem conversionWithoutSampleRaises : Obligations.ConversionWithoutSampleRaises := by
  intro s ha hv i hi
  obtain ⟨-, -, -, hnoSample, -⟩ := commandWord_of_mem hi
  exact hnoSample s ha hv

/-- Settles O14: a reserved opcode belongs to no row of the opcode map, a nonzero argument to LDS only; and LDS loads, keeping ERR and CAUSE. -/
theorem illegalWordsRaise : Obligations.IllegalWordsRaise := by
  refine ⟨fun s w rest ⟨hw, he⟩ hp hill => step_illegal_raises hp hw he ?_, fun s w rest ⟨hw, he⟩ hp hC => ?_⟩
  · obtain h | h | h | h | ⟨hC, harg⟩ := hill
    · exact illegal_of_reserved_opcode (.inl h)
    · exact illegal_of_reserved_opcode (.inr (.inl h))
    · exact illegal_of_reserved_opcode (.inr (.inr (.inl h)))
    · exact illegal_of_reserved_opcode (.inr (.inr (.inr h)))
    · exact ⟨_, decode_of_nonzero_arg hC harg⟩
  · exact ⟨_, step_lds_completes hp hw he (decode_of_lds hC), (err_load (argField w) s).trans he, cause_load (argField w) s⟩

/-- Settles O16: the general clause at the engine after reset, whose two words decode to an illegal word and to TC. -/
theorem illegalBeforeNoSample : Obligations.IllegalBeforeNoSample := by
  obtain ⟨ha, hv⟩ := accepting_reset_without_sample
  have hreset (w : CmdWord) := step_fault_without_sample (s := { State.reset with port := [.issue w] }) ha hv rfl
  exact ⟨fun s w rest => step_fault_without_sample, (hreset 0x000000001#36).1 .nonzeroArg (by decide),
    (hreset 0x000000000#36).2 .tc (by decide) (by decide)⟩

end Sys2Proof.Machine

/-! # The reset family (spec/70_reset_and_hazards.md): reset clears STATUS, and nothing else does (R112) -/

namespace Sys2Proof.Machine

open Sys2Proof.Claims

/-! ## Only a reset clears SV or RV -/

/-- From `s` to `t` neither a set SV nor a set RV is cleared. -/
def KeepsValid (s t : State) : Prop := (s.sv = true → t.sv = true) ∧ (s.rv = true → t.rv = true)

/-- Equal SV and RV are not cleared. -/
theorem keepsValid_of_eq {s t : State} (hsv : t.sv = s.sv) (hrv : t.rv = s.rv) : KeepsValid s t := by
  rw [KeepsValid, hsv, hrv]; exact ⟨id, id⟩

/-- Fault entry writes neither SV nor RV (R101). -/
theorem keepsValid_raise (c : Cause) (s : State) : KeepsValid s (raise c s) :=
  keepsValid_of_eq (raise_sv c s) (raise_rv c s)

/-- No command clears SV or RV: LDS sets SV, a conversion sets RV. -/
theorem exec_keepsValid {i : Instr} {s t : State} (h : exec i s = .next t) : KeepsValid s t := by
  obtain ⟨-, ⟨-, rfl⟩ | ⟨-, a, -, rfl⟩ | ⟨-, -, -, rfl⟩ | ⟨-, -, f, -, rfl⟩⟩ := exec_next h
  · exact keepsValid_of_eq rfl rfl
  · exact ⟨fun _ => sv_load a s, (rv_load a s).trans⟩
  · exact keepsValid_raise .noSample s
  · exact ⟨(latch_sv _ s).trans, fun _ => latch_rv _ s⟩

/-- No illegal word clears SV or RV. -/
theorem rejectWord_keepsValid {s t : State} (h : rejectWord s = .next t) : KeepsValid s t := by
  obtain ⟨-, ⟨-, rfl⟩ | ⟨-, rfl⟩⟩ := rejectWord_next h
  · exact keepsValid_of_eq rfl rfl
  · exact keepsValid_raise .illegalCommand s

/-- No step clears SV or RV but one that takes a reset. -/
theorem step_keepsValid {s t : State} (hr : ∀ rest, s.port ≠ .reset :: rest) (h : step s = .next t) :
    KeepsValid s t := by
  obtain ⟨-, -, rfl⟩ | ⟨rest, hp, -⟩ | ⟨w, rest, y, -, -, hx⟩ | ⟨w, rest, i, -, -, hx⟩ := step_next h
  · exact keepsValid_of_eq rfl rfl
  · exact absurd hp (hr rest)
  · exact rejectWord_keepsValid (s := { s with port := rest }) hx
  · exact exec_keepsValid (s := { s with port := rest }) hx

/-! ## What a reset leaves -/

/-- After a reset an engine with a well-formed table accepts a command, whether or not it was halted. -/
theorem accepting_clearedByReset {s : State} (hw : LutWF s.lut) : Accepting (clearedByReset s) :=
  ⟨hw, clearedByReset_err s⟩

/-- Settles O19: a reset clears the whole of STATUS and keeps the table; every other step keeps the fault fields and the valid flags. -/
theorem hostResetClearsStatus : Obligations.HostResetClearsStatus := by
  refine ⟨fun s rest hw hp => ?_, fun s t h hr => ?_, rfl⟩
  · exact ⟨_, step_of_reset hw hp, rfl, rfl, rfl, accepting_clearedByReset hw⟩
  · obtain ⟨herr, hcause⟩ := step_keepsFault hr h
    obtain ⟨hsv, hrv⟩ := step_keepsValid hr h
    exact ⟨herr, hcause, hsv, hrv⟩

end Sys2Proof.Machine

/-! # The invariant (spec/10_state.md R22, spec/93_implementation_defined.md U3): it holds at reset and every step keeps it; no step writes the table (R15) -/

namespace Sys2Proof.Machine

/-! ## The invariants of STATUS, one lemma per update -/

/-- STATUS 0 is legal. -/
theorem statusInv_of_status_zero {s : State} (h : s.status = 0#6) : StatusInv s := by
  simp only [StatusInv, State.err, State.cause, State.rv, State.sv, State.miss, h]
  decide

/-- The code of a cause is not 3 (93 U3). -/
theorem causeCode_ne_three (c : Cause) : causeCode c ≠ 3#2 := by
  cases c <;> decide

/-- Fault entry in a running engine keeps STATUS legal: it sets ERR with a code that is neither 0 nor 3. -/
theorem statusInv_raise (c : Cause) {s : State} (he : s.err = false) (h : StatusInv s) : StatusInv (raise c s) := by
  obtain ⟨-, hrv, hmiss, -⟩ := h
  have hcause := raise_cause c s he
  refine ⟨?_, ?_, ?_, hcause ▸ causeCode_ne_three c⟩
  · simp [hcause, causeCode_ne_zero c]
  · rwa [raise_rv, raise_sv]
  · rwa [raise_miss, raise_rv]

/-- Latching a conversion keeps STATUS legal in an engine that holds a sample: it sets RV. -/
theorem statusInv_latch (c : Conversion) {s : State} (hv : s.sv = true) (h : StatusInv s) : StatusInv (latch c s) := by
  obtain ⟨herr, -, -, hcause⟩ := h
  refine ⟨?_, fun _ => (latch_sv c s).trans hv, fun _ => latch_rv c s, ?_⟩
  · rwa [latch_err, latch_cause]
  · rwa [latch_cause]

/-- Loading a sample keeps STATUS legal: it sets SV. -/
theorem statusInv_load (a : Word32) {s : State} (h : StatusInv s) :
    StatusInv { s with sample := a, status := Flags.sampleLoaded s.status } := by
  obtain ⟨herr, -, hmiss, hcause⟩ := h
  refine ⟨?_, fun _ => sv_load a s, ?_, ?_⟩
  · rwa [err_load, cause_load]
  · rwa [miss_load, rv_load]
  · rwa [cause_load]

/-! ## What every operation keeps -/

/-- From `s` to `t` the table stays and a legal STATUS stays legal. -/
def KeepsInv (s t : State) : Prop := t.lut = s.lut ∧ (StatusInv s → StatusInv t)

/-- Every command keeps the table and a legal STATUS. -/
theorem exec_keepsInv {i : Instr} {s t : State} (h : exec i s = .next t) : KeepsInv s t := by
  obtain ⟨-, ⟨-, rfl⟩ | ⟨-, a, -, rfl⟩ | ⟨he, -, -, rfl⟩ | ⟨-, hv, f, -, rfl⟩⟩ := exec_next h
  · exact ⟨rfl, id⟩
  · exact ⟨rfl, statusInv_load a⟩
  · exact ⟨raise_lut _ s, statusInv_raise _ he⟩
  · exact ⟨rfl, statusInv_latch _ hv⟩

/-- An illegal word keeps the table and a legal STATUS. -/
theorem rejectWord_keepsInv {s t : State} (h : rejectWord s = .next t) : KeepsInv s t := by
  obtain ⟨-, ⟨-, rfl⟩ | ⟨he, rfl⟩⟩ := rejectWord_next h
  · exact ⟨rfl, id⟩
  · exact ⟨raise_lut _ s, statusInv_raise _ he⟩

/-- A host reset keeps the table and leaves a legal STATUS. -/
theorem hostReset_keepsInv {s t : State} (h : hostReset s = .next t) : KeepsInv s t := by
  obtain ⟨-, rfl⟩ := hostReset_next h
  exact ⟨rfl, fun _ => statusInv_of_status_zero rfl⟩

/-- Every step keeps the table and a legal STATUS. -/
theorem step_keepsInv {s t : State} (h : step s = .next t) : KeepsInv s t := by
  obtain ⟨-, -, rfl⟩ | ⟨rest, -, hx⟩ | ⟨w, rest, y, -, -, hx⟩ | ⟨w, rest, i, -, -, hx⟩ := step_next h
  · exact ⟨rfl, id⟩
  · exact hostReset_keepsInv (s := { s with port := rest }) hx
  · exact rejectWord_keepsInv (s := { s with port := rest }) hx
  · exact exec_keepsInv (s := { s with port := rest }) hx

/-- No step changes the table. -/
theorem step_lut {s t : State} (h : step s = .next t) : t.lut = s.lut := by
  obtain ⟨hlut, -⟩ := step_keepsInv h
  exact hlut

/-- The invariant gives a well-formed table. -/
theorem MachineInv.lutWF {s : State} (hi : MachineInv s) : LutWF s.lut := by
  obtain ⟨hw, -⟩ := hi
  exact hw

/-- Every step keeps the machine invariant. -/
theorem step_keeps_machineInv {s t : State} (hi : MachineInv s) (h : step s = .next t) : MachineInv t := by
  obtain ⟨hlut, hstatus⟩ := step_keepsInv h
  obtain ⟨hw, hs⟩ := hi
  exact ⟨hlut ▸ hw, hstatus hs⟩

/-- What every step keeps holds at the end of every run. -/
theorem core_run_keeps {P : State → Prop} (hP : ∀ s t, P s → step s = .next t → P t) :
    ∀ {n : Nat} {s t : State}, P s → Host.Core.run core n s = .next t → P t
  | 0, s, t, hs, h => by
    rw [core_run_zero] at h
    cases h; exact hs
  | n + 1, s, t, hs, h => by
    obtain ⟨u, hu, hrun⟩ := core_run_succ_next h
    exact core_run_keeps hP (hP s u hs hu) hrun

/-! ## The obligations -/

/-- Settles O3: each update of STATUS keeps it legal, and no update writes the table. -/
theorem stepKeepsInv : Obligations.StepKeepsInv := fun _ _ => step_keeps_machineInv

/-- Settles O4: one step keeps the table, so every run does. -/
theorem runsKeepTheTable : Obligations.RunsKeepTheTable := fun _ s _ =>
  core_run_keeps (P := fun u => u.lut = s.lut) (fun _ _ hu h => (step_lut h).trans hu) rfl

/-- Settles O1: the engine after reset accepts commands, and the rest is evaluated. -/
theorem resetLeavesStatusZero : Obligations.ResetLeavesStatusZero := by
  obtain ⟨haccepting, hsv⟩ := accepting_reset_without_sample
  exact ⟨rfl, rfl, rfl, haccepting, hsv, by decide⟩

/-- Settles O2: the reference table is well formed and STATUS 0 is legal. -/
theorem invHoldsAtReset : Obligations.InvHoldsAtReset := ⟨lutWF_lutRef, statusInv_of_status_zero rfl⟩

end Sys2Proof.Machine

/-! # Steps and runs: a well-formed machine always answers, a malformed one never runs (R17), the halted engine (R105), runs of the host (R120) -/

namespace Sys2Proof.Machine

/-! ## Which machines answer -/

section
variable {s : State} (hw : LutWF s.lut)
include hw

/-- Every command answers a next state. -/
theorem exists_exec_next (i : Instr) : ∃ t, exec i s = .next t := by
  cases he : s.err with
  | true => exact ⟨s, exec_of_halted i hw he⟩
  | false =>
    obtain ⟨a, rfl, -, -⟩ | ⟨f, hf, hc, -⟩ := exec_shape i
    · exact ⟨_, exec_lds_of_running a hw he⟩
    · cases hv : s.sv with
      | true => exact ⟨_, exec_of_ready hf hw he hv⟩
      | false => exact ⟨_, exec_of_no_sample hc hw he hv⟩

/-- An illegal word in a halted engine changes nothing (R105). -/
theorem rejectWord_of_halted (he : s.err = true) : rejectWord s = .next s := whenAccepted_of_halted _ hw he

/-- Every illegal word answers a next state. -/
theorem exists_rejectWord_next : ∃ t, rejectWord s = .next t := by
  cases he : s.err with
  | true => exact ⟨s, rejectWord_of_halted hw he⟩
  | false => exact ⟨_, rejectWord_of_running hw he⟩

/-- A step with nothing pending changes nothing (R110). -/
theorem step_of_idle (hp : s.port = []) : step s = .next s :=
  (step_of_empty hp).trans (whenConfigured_of_wf _ hw)

/-- Every step answers a next state. -/
theorem exists_step_next : ∃ t, step s = .next t := by
  match hp : s.port with
  | [] => exact ⟨s, step_of_idle hw hp⟩
  | .reset :: rest => exact ⟨_, step_of_reset hw hp⟩
  | .issue w :: rest =>
    cases hd : decode w with
    | illegal y => exact step_of_illegal hp hd ▸ exists_rejectWord_next (s := { s with port := rest }) hw
    | command i => exact step_of_command hp hd ▸ exists_exec_next (s := { s with port := rest }) hw i

end

section
variable {s : State} (hw : ¬ LutWF s.lut)
include hw

/-- A malformed machine refuses every command. -/
theorem exec_of_not_wf (i : Instr) : exec i s = .refused .tableNotWellFormed := by
  obtain ⟨a, -, -, h⟩ | ⟨f, -, -, h⟩ := exec_shape i
  all_goals
    rw [h]
    exact whenConfigured_of_not_wf _ hw

/-- A malformed machine refuses every step. -/
theorem step_of_not_wf : step s = .refused .tableNotWellFormed := by
  match hp : s.port with
  | [] => exact (step_of_empty hp).trans (whenConfigured_of_not_wf _ hw)
  | .reset :: rest => exact (step_of_pending hp).trans (whenConfigured_of_not_wf _ hw)
  | .issue w :: rest =>
    cases hd : decode w with
    | illegal y => exact (step_of_illegal hp hd).trans (whenConfigured_of_not_wf _ hw)
    | command i => exact (step_of_command hp hd).trans (exec_of_not_wf (s := { s with port := rest }) hw i)

end

/-! ## The halted engine (R105, R111) -/

section
variable {s : State} (hw : LutWF s.lut) (he : s.err = true)
include hw he

/-- A step over a word in a halted engine takes the word off the port and changes nothing else (log entry 6). -/
theorem step_of_halted_word {w : CmdWord} {rest : List HostAction} (hp : s.port = .issue w :: rest) :
    step s = .next { s with port := rest } := by
  cases hd : decode w with
  | illegal y => exact (step_of_illegal hp hd).trans (rejectWord_of_halted (s := { s with port := rest }) hw he)
  | command i => exact (step_of_command hp hd).trans (exec_of_halted i (s := { s with port := rest }) hw he)

/-- A step of a halted engine that takes no reset drops the oldest pending action, if there is one. -/
theorem step_of_halted (hr : ∀ a ∈ s.port, a ≠ .reset) : step s = .next { s with port := s.port.drop 1 } := by
  match hp : s.port with
  | [] =>
    rw [List.drop_nil, ← hp]
    exact step_of_idle hw hp
  | .reset :: rest => exact absurd rfl (hr .reset (hp ▸ List.mem_cons_self))
  | .issue w :: rest => exact step_of_halted_word hw he hp

end

/-- A run of a halted engine without a reset drops pending actions and changes nothing else. -/
theorem core_run_of_halted : ∀ (n : Nat) {s : State}, LutWF s.lut → s.err = true → (∀ a ∈ s.port, a ≠ .reset) →
    Host.Core.run core n s = .next { s with port := s.port.drop n }
  | 0, s, _, _, _ => core_run_zero s
  | n + 1, s, hw, he, hr => by
    have hrest : ∀ a ∈ s.port.drop 1, a ≠ .reset := fun a ha => hr a (List.mem_of_mem_drop ha)
    rw [core_run_of_next (step_of_halted hw he hr), core_run_of_halted n (s := { s with port := s.port.drop 1 }) hw he hrest,
      List.drop_drop, Nat.add_comm 1 n]

/-! ## What a step does not read: the actions behind the one it takes -/

/-- Fault entry neither reads nor writes the port. -/
theorem raise_setPort (c : Cause) (p : List HostAction) {s : State} (he : s.err = false) :
    raise c { s with port := p } = { raise c s with port := p } := by
  rw [raise_running c s he]
  exact raise_running c { s with port := p } he

section
variable (p : List HostAction) {s t : State}

/-- A command answers alike whatever is pending. -/
theorem exec_setPort {i : Instr} (h : exec i s = .next t) :
    exec i { s with port := p } = .next { t with port := p } := by
  obtain ⟨hw, ⟨he, rfl⟩ | ⟨he, a, rfl, rfl⟩ | ⟨he, hv, hc, rfl⟩ | ⟨he, hv, f, hf, rfl⟩⟩ := exec_next h
  · exact exec_of_halted i hw he
  · exact exec_lds_of_running a (s := { s with port := p }) hw he
  · exact (exec_of_no_sample (s := { s with port := p }) hc hw he hv).trans (congrArg _ (raise_setPort _ p he))
  · exact exec_of_ready hf (s := { s with port := p }) hw he hv

/-- An illegal word answers alike whatever is pending. -/
theorem rejectWord_setPort (h : rejectWord s = .next t) :
    rejectWord { s with port := p } = .next { t with port := p } := by
  obtain ⟨hw, ⟨he, rfl⟩ | ⟨he, rfl⟩⟩ := rejectWord_next h
  · exact rejectWord_of_halted hw he
  · exact (rejectWord_of_running (s := { s with port := p }) hw he).trans (congrArg _ (raise_setPort _ p he))

/-- A host reset answers alike whatever is pending. -/
theorem hostReset_setPort (h : hostReset s = .next t) :
    hostReset { s with port := p } = .next { t with port := p } := by
  obtain ⟨hw, rfl⟩ := hostReset_next h
  exact whenConfigured_of_wf _ hw

/-- An action answers alike whatever is pending behind it. -/
theorem perform_setPort {a : HostAction} (h : perform exec a s = .next t) :
    perform exec a { s with port := p } = .next { t with port := p } := by
  cases a with
  | reset => exact hostReset_setPort p h
  | issue w =>
    cases hd : decode w with
    | illegal y =>
      rw [perform_illegal _ hd] at h ⊢
      exact rejectWord_setPort p h
    | command i =>
      rw [perform_command _ hd] at h ⊢
      exact exec_setPort p h

/-- A step over one pending action, with `p` pending behind it, does the same and leaves `p` pending. -/
theorem step_of_single_setPort {a : HostAction} (h : step { s with port := [a] } = .next t) :
    step { s with port := a :: p } = .next { t with port := p } := by
  rw [step_of_pending rfl] at h ⊢
  exact perform_setPort p (s := { s with port := [] }) h

end

/-! ## Runs of the host (R120) -/

/-- A run that ends in a state is successful exactly when that state is not halted. -/
theorem successful_next_iff {t : State} : Successful (.next t) ↔ t.err = false := by
  simp [Successful]

/-- From a state that meets the invariant every run of the host ends in one that does, with the same table. -/
theorem exists_hostRun_next : ∀ (acts : List HostAction) {s : State}, MachineInv s →
    ∃ t, hostRun acts s = .next t ∧ MachineInv t ∧ t.lut = s.lut
  | [], s, hi => ⟨s, hostRun_nil s, hi, rfl⟩
  | a :: rest, s, hi => by
    cases he : s.err with
    | true => exact ⟨s, hostRun_of_halted he _, hi, rfl⟩
    | false =>
      have hi' : MachineInv { s with port := [a] } := hi
      obtain ⟨u, hu⟩ := exists_step_next hi'.lutWF
      obtain ⟨t, ht, hti, htl⟩ := exists_hostRun_next rest (step_keeps_machineInv hi' hu)
      exact ⟨t, (hostRun_of_next he hu rest).trans ht, hti, htl.trans (step_lut (s := { s with port := [a] }) hu)⟩

/-- A run that ends without a fault took its first action in a running engine. -/
theorem hostRun_cons_next {a : HostAction} {rest : List HostAction} {s t : State} (hw : LutWF s.lut)
    (h : hostRun (a :: rest) s = .next t) (ht : t.err = false) :
    ∃ u, step { s with port := [a] } = .next u ∧ hostRun rest u = .next t := by
  cases he : s.err with
  | true =>
    rw [hostRun_of_halted he] at h
    cases h
    rw [he] at ht; cases ht
  | false =>
    obtain ⟨u, hu⟩ := exists_step_next (s := { s with port := [a] }) hw
    exact ⟨u, hu, (hostRun_of_next he hu rest).symm.trans h⟩

/-- A run of the host that ends without a fault, as steps over the same actions on the port. -/
theorem core_run_of_hostRun : ∀ (acts : List HostAction) {s t : State}, LutWF s.lut → hostRun acts s = .next t →
    t.err = false → Host.Core.run core acts.length { s with port := acts } = .next { t with port := [] }
  | [], s, t, _, h, _ => by
    rw [hostRun_nil] at h
    cases h; rfl
  | a :: rest, s, t, hw, h, ht => by
    obtain ⟨u, hu, hrun⟩ := hostRun_cons_next hw h ht
    have huw : LutWF u.lut := step_lut hu ▸ hw
    rw [List.length_cons, core_run_of_next (step_of_single_setPort rest hu)]
    exact core_run_of_hostRun rest huw hrun ht

/-! ## The obligations -/

/-- Settles O18: a halted engine only drops pending words, by `core_run_of_halted`, and a command in it answers the state it was given. -/
theorem haltLastsUntilReset : Obligations.HaltLastsUntilReset := by
  refine ⟨fun n s hw he hr => ⟨_, core_run_of_halted n hw he hr, ⟨rfl, rfl, rfl, rfl⟩, rfl, rfl⟩,
    fun s t h he hr => ?_, fun s w rest hw he => step_of_halted_word hw he, fun s i => exec_of_halted i⟩
  obtain ⟨p, rfl⟩ := step_of_halted_next he hr h
  exact ⟨he, rfl⟩

/-- Settles O57: every step answers and keeps the invariant, so every run does; whether it is successful is read off ERR. -/
theorem hostRunsEndInLegalStates : Obligations.HostRunsEndInLegalStates := by
  intro acts s hi
  obtain ⟨t, ht, hti, htl⟩ := exists_hostRun_next acts hi
  exact ⟨t, ht, hti, htl, ht ▸ successful_next_iff⟩

/-- Settles O58: the run ends in the same state but for the port, by `core_run_of_hostRun`. -/
theorem successfulRunsAreSteps : Obligations.SuccessfulRunsAreSteps := fun acts _ _ hw h ht =>
  ⟨_, core_run_of_hostRun acts hw h ht, ⟨rfl, rfl, rfl, rfl⟩, rfl, rfl⟩

/-- Settles O10: it is the step's equation at a pending command. -/
theorem stepRunsDecodedCommand : Obligations.StepRunsDecodedCommand := fun _ _ _ _ hp => step_of_command hp

/-- Settles O12: it is the step's equation at an empty port. -/
theorem idleHoldsRegisters : Obligations.IdleHoldsRegisters := fun _ => step_of_idle

/-- Settles O13: every command and every step is admitted by `whenConfigured` first. -/
theorem malformedTableRefused : Obligations.MalformedTableRefused := fun _ hw => ⟨step_of_not_wf hw, exec_of_not_wf hw⟩

end Sys2Proof.Machine

/-! # The encoding family: how many words are commands (R49), and the printed words (spec/95_test_vectors.md section 2.1) -/

namespace Sys2Proof

open Sys2Proof.Claims

/-! ## Counting words by the commands they stand for -/

/-- Different commands have different words: the decoder tells them apart. -/
theorem encode_injective : Function.Injective encode := fun i j h => by
  have hi : decode (encode j) = .command i := decode_eq_command_iff.mpr h
  have hj : decode (encode j) = .command j := decode_eq_command_iff.mpr rfl
  rw [hi] at hj
  cases hj; rfl

/-- The words that decode to a command of a family `f` without repetition are as many as the family's indices. -/
theorem card_decode_range {ι : Type} {f : ι → Instr} (hf : Function.Injective f) :
    Nat.card {w : CmdWord // ∃ x, decode w = .command (f x)} = Nat.card ι := by
  simp only [decode_eq_command_iff]
  exact Nat.card_range_of_injective (encode_injective.comp hf)

/-- LDS with different arguments are different commands. -/
theorem lds_injective : Function.Injective Instr.lds := fun _ _ h => Instr.lds.inj h

/-- There are `2 ^ 32` arguments. -/
theorem card_word32 : Nat.card Word32 = 2 ^ 32 := Nat.card_eq_of_equiv_fin BitVec.equivFin.toEquiv

/-- The commands are LDS with every argument, and the eleven conversions. -/
theorem card_instr : Nat.card Instr = 2 ^ 32 + 11 := by
  have huniv : (Set.univ : Set Instr) = Set.range Instr.lds ∪ {i | i ∈ conversionCommands} :=
    (Set.eq_univ_of_forall fun i => (eq_lds_or_mem_conversionCommands i).imp_left fun ⟨a, h⟩ => ⟨a, h.symm⟩).symm
  have hdisj : Disjoint (Set.range Instr.lds) {i | i ∈ conversionCommands} := by
    rw [Set.disjoint_left]
    rintro _ ⟨a, rfl⟩ hmem
    obtain ⟨-, hop⟩ := argument_and_opcode_of_mem _ hmem
    exact hop rfl
  have hconv : {i | i ∈ conversionCommands} = (conversionCommands.toFinset : Set Instr) := (List.coe_toFinset _).symm
  have hcard : conversionCommands.toFinset.card = 11 := by decide
  rw [← Set.ncard_univ, huniv, Set.ncard_union_eq hdisj (Set.finite_range _) (hconv ▸ Finset.finite_toSet _), hconv,
    Set.ncard_coe_finset, ← Nat.card_coe_set_eq, Nat.card_range_of_injective lds_injective, card_word32, hcard]

/-- Settles O8: the words of a family of commands are as many as the commands. -/
theorem legalWordCount : Obligations.LegalWordCount :=
  ⟨(card_decode_range lds_injective).trans card_word32, (card_decode_range Function.injective_id).trans card_instr⟩

/-! ## The printed words -/

/-- Every printed illegal word has a reserved opcode, or a nonzero argument under an opcode other than that of LDS (R49). -/
theorem printed_words_reserved_or_nonzero_arg :
    ∀ w ∈ [0x600000000#36, 0x700000000#36, 0xE00000000#36, 0xF00000000#36, 0x000000001#36, 0xA00000001#36,
        0xD80000000#36, 0x6FFFFFFFF#36],
      (opField w = 0x6#4 ∨ opField w = 0x7#4 ∨ opField w = 0xE#4 ∨ opField w = 0xF#4) ∨
        (opField w ≠ 0xC#4 ∧ argField w ≠ 0#32) := by
  simp only [List.forall_mem_cons]
  exact ⟨.inl (by decide), .inl (by decide), .inl (by decide), .inl (by decide), .inr (by decide), .inr (by decide),
    .inr (by decide), .inl (by decide), nofun⟩

/-- Settles O9: the legal words are decoded, and each illegal one is of one of the two kinds. -/
theorem printedWordsDecode : Obligations.PrintedWordsDecode := by
  refine ⟨by decide, by decide, by decide, by decide, by decide, by decide, fun w hw => ?_⟩
  obtain hreserved | ⟨hC, harg⟩ := printed_words_reserved_or_nonzero_arg w hw
  · exact Machine.illegal_of_reserved_opcode hreserved
  · exact ⟨_, decode_of_nonzero_arg hC harg⟩

end Sys2Proof

/-! # The encoding family: the text of a command reads back (R52) -/

namespace Sys2Proof.Machine

/-! ## Hexadecimal digits -/

/-- A hexadecimal digit has its own value. -/
theorem digitValue_hexDigit : ∀ v < 16, digitValue 16 (hexDigits.getD v '0') = some v := by decide

/-- Reading two strings of digits one after the other. -/
theorem digitsValue_append (base : Nat) : ∀ (acc : Nat) (cs ds : List Char),
    digitsValue base acc (cs ++ ds) = (digitsValue base acc cs).bind fun v => digitsValue base v ds
  | _, [], _ => rfl
  | acc, c :: cs, ds => by
    rw [List.cons_append, digitsValue, digitsValue, Option.bind_assoc]
    congr 1
    funext v
    exact digitsValue_append base _ cs ds

/-- The digits of a number are read as that number. -/
theorem digitsValue_hexText : ∀ {k v : Nat}, v < 16 ^ k → digitsValue 16 0 (hexText k v) = some v
  | 0, v, hv => by
    obtain rfl : v = 0 := Nat.lt_one_iff.mp hv
    rfl
  | k + 1, v, hv => by
    have hdiv : v / 16 < 16 ^ k := Nat.div_lt_of_lt_mul (by rwa [pow_succ'] at hv)
    rw [hexText, digitsValue_append, digitsValue_hexText hdiv, Option.bind_some, digitsValue,
      digitValue_hexDigit _ (Nat.mod_lt v (by decide)), Option.bind_some, digitsValue, Nat.div_add_mod']

/-- A number in at least one digit is no empty text. -/
theorem hexText_ne_nil (k v : Nat) : hexText (k + 1) v ≠ [] := by
  simp [hexText]

/-- A hexadecimal literal is read digit by digit. -/
theorem hexLiteral_of_ne_nil {cs : List Char} (h : cs ≠ []) : hexLiteral ('0' :: 'x' :: cs) = digitsValue 16 0 cs := by
  cases cs with
  | nil => exact absurd rfl h
  | cons c cs => rfl

/-! ## Tokens -/

/-- A character that neither ends a token nor is one. -/
def IsTokenChar (c : Char) : Prop := c ≠ ';' ∧ c ≠ ' ' ∧ c ≠ ','

/-- Hexadecimal digits belong to a token. -/
theorem isTokenChar_hexDigit : ∀ v < 16, IsTokenChar (hexDigits.getD v '0') := by
  unfold IsTokenChar; decide

/-- Every digit of a number belongs to a token. -/
theorem isTokenChar_of_mem_hexText : ∀ {k v : Nat}, ∀ c ∈ hexText k v, IsTokenChar c
  | k + 1, v, c, hc => by
    rw [hexText, List.mem_append, List.mem_singleton] at hc
    obtain hc | rfl := hc
    · exact isTokenChar_of_mem_hexText c hc
    · exact isTokenChar_hexDigit _ (Nat.mod_lt v (by decide))

/-- The rest of a line without a separator completes the token being read. -/
theorem asmTokens_of_tokenChars : ∀ {cs : List Char} (cur : List Char), (∀ c ∈ cs, IsTokenChar c) →
    asmTokens cur cs = flushToken (cs.reverse ++ cur) []
  | [], _, _ => rfl
  | c :: cs, cur, h => by
    obtain ⟨hc, hcs⟩ := List.forall_mem_cons.mp h
    obtain ⟨hsemi, hspace, hcomma⟩ := hc
    rw [asmTokens, if_neg hsemi, if_neg hspace, if_neg hcomma, asmTokens_of_tokenChars (c :: cur) hcs,
      List.reverse_cons, List.append_assoc, List.singleton_append]

/-- The tokens of a line of LDS: the mnemonic and the literal. -/
theorem asmTokens_lds (v : Nat) : asmTokens [] (asmMnemonic (.lds 0#32) ++ [' ', '0', 'x'] ++ hexText 8 v) =
    [asmMnemonic (.lds 0#32), '0' :: 'x' :: hexText 8 v] := by
  have hmnemonic : asmTokens [] (asmMnemonic (.lds 0#32) ++ [' ', '0', 'x'] ++ hexText 8 v) =
      asmMnemonic (.lds 0#32) :: asmTokens ['x', '0'] (hexText 8 v) := rfl
  rw [hmnemonic, asmTokens_of_tokenChars _ isTokenChar_of_mem_hexText, flushToken, if_neg (by simp)]
  simp

/-! ## Lines -/

/-- The line of a command without an operand. -/
theorem parseLine_asmText_of_mem : ∀ i ∈ Claims.conversionCommands, parseLine (asmText i) = some (.command i) := by decide

/-- The line of LDS. -/
theorem parseLine_asmText_lds (arg : Word32) : parseLine (asmText (.lds arg)) = some (.command (.lds arg)) := by
  have hlit : hexLiteral ('0' :: 'x' :: hexText 8 arg.toNat) = some arg.toNat :=
    (hexLiteral_of_ne_nil (hexText_ne_nil 7 _)).trans (digitsValue_hexText arg.isLt)
  have htokens : parseLine (asmText (.lds arg)) =
      asmOfTokens [asmMnemonic (.lds 0#32), '0' :: 'x' :: hexText 8 arg.toNat] :=
    congrArg asmOfTokens (asmTokens_lds arg.toNat)
  rw [htokens, asmOfTokens, if_pos (by rfl), hlit, Option.bind_some, if_pos arg.isLt, BitVec.ofNat_toNat, BitVec.setWidth_eq]

/-- The line of every command reads back as that command. -/
theorem parseLine_asmText (i : Instr) : parseLine (asmText i) = some (.command i) := by
  obtain ⟨arg, rfl⟩ | hi := eq_lds_or_mem_conversionCommands i
  · exact parseLine_asmText_lds arg
  · exact parseLine_asmText_of_mem i hi

/-- Settles O60: what reads back as a command assembles to the command's word. -/
theorem assemblyTextRoundTrip : Obligations.AssemblyTextRoundTrip := fun i => by
  refine ⟨parseLine_asmText i, ?_⟩
  rw [assemble, parseLine_asmText, Option.bind_some]
  rfl

end Sys2Proof.Machine

/-! # The lookup family: the selected index and value rise with the raw humidity (R80), and a miss is one of the miss cases (R77) -/

namespace Sys2Proof.Machine

open Sys2Proof.Claims

section
variable {lut : List LutEntry} (hw : LutWF lut)
include hw

/-- The lookup misses exactly in the statements' miss cases. -/
theorem lookup_eq_miss_iff_misses {h : U16} : lookup lut h = .miss ↔ Misses lut h := by
  refine ⟨fun hl => ?_, lookup_eq_miss_of_misses hw⟩
  obtain ⟨last, h100⟩ := lut_entry_exists hw (le_refl 100)
  exact ((lookup_eq_miss_iff_zero_or hw h100).mp hl).imp_right fun hlt => ⟨last, h100, hlt⟩

/-- A raw humidity that is in no miss case hits. -/
theorem exists_lookup_hit_of_not_misses {h : U16} (hm : ¬ Misses lut h) : ∃ i, lookup lut h = .hit i := by
  cases hl : lookup lut h with
  | hit i => exact ⟨i, rfl⟩
  | miss => exact absurd ((lookup_eq_miss_iff_misses hw).mp hl) hm

/-- The selected values of two buckets are in the order of the buckets (W4). -/
theorem lutValue_mono {i j : Nat} (hi : 1 ≤ i) (hij : i ≤ j) (hj : j ≤ 100) :
    (lutValue lut i).toInt ≤ (lutValue lut j).toInt := by
  obtain ⟨a, ha⟩ := lut_entry_exists hw (hij.trans hj)
  obtain ⟨b, hb⟩ := lut_entry_exists hw hj
  rw [lutValue_of_entry ha, lutValue_of_entry hb]
  exact lut_value_le hw hi hij ha hb

/-- The selected value does not decrease with the raw humidity. -/
theorem lutValue_mono_of_hit {h h' : U16} {i j : Nat} (hh : h ≤ h') (hl : lookup lut h = .hit i)
    (hl' : lookup lut h' = .hit j) : (lutValue lut i).toInt ≤ (lutValue lut j).toInt := by
  have hi := inBucket_of_lookup_hit hw hl
  have hj := inBucket_of_lookup_hit hw hl'
  have hij := inBucket_index_mono hw hh hi hj
  obtain ⟨h1, -⟩ := hi
  obtain ⟨-, h100, -⟩ := hj
  exact lutValue_mono hw h1 hij h100

end

/-- Settles O38: buckets rise with the raw humidity and values with the bucket, none of them positive. -/
theorem lookupMonotone : Obligations.LookupMonotone := fun _ hw _ _ _ _ hh hl hl' =>
  ⟨inBucket_index_mono hw hh (inBucket_of_lookup_hit hw hl) (inBucket_of_lookup_hit hw hl'),
    lutValue_mono_of_hit hw hh hl hl', lutValue_nonpos_of_hit hw hl'⟩

end Sys2Proof.Machine

/-! # The dew-point family: ranges (R95), monotonicity, and two samples in one bucket (R99) -/

namespace Sys2Proof.Machine

open Sys2Proof.Claims

/-! ## The nodes of the chain between their corners (R95) -/

/-- The Q16 Celsius temperature rises with TRAW. -/
theorem tempQ16_mono {t t' : U16} (h : t ≤ t') : tempQ16 t ≤ tempQ16 t' := by
  rw [BitVec.le_def] at h
  rw [tempQ16_eq, tempQ16_eq]
  omega

/-- The range of step 4. -/
theorem dewM_range (t : U16) : -227555 ≤ dewM (tempQ16 t) ∧ dewM (tempQ16 t) ≤ 392299 := by
  obtain ⟨hlo, hhi⟩ := tempQ16_range t
  have hmin : dewM (-2621440) = -227555 := by decide
  have hmax : dewM 8191835 = 392299 := by decide
  exact ⟨hmin ▸ dewM_mono (by decide) hlo, hmax ▸ dewM_mono (dewS_pos t) hhi⟩

/-- The ranges of P, S, G, NUM and DEN for a value of at most 0: each is linear in T, in M and in the value. -/
theorem dewNodes_range (t : U16) {v : Word32} (hv : v.toInt ≤ 0) :
    (-3027951943680 ≤ Config.dewB * tempQ16 t ∧ Config.dewB * tempQ16 t ≤ 9462159237120) ∧
    (13306429 ≤ Config.dewA + tempQ16 t ∧ Config.dewA + tempQ16 t ≤ 24119704) ∧
    (-2147711203 ≤ dewG (tempQ16 t) v.toInt ∧ dewG (tempQ16 t) v.toInt ≤ 392299) ∧
    (-34208462691216407 ≤ Config.dewA * dewG (tempQ16 t) v.toInt ∧
      Config.dewA * dewG (tempQ16 t) v.toInt ≤ 6248487080831) ∧
    (762773 ≤ Config.dewB - dewG (tempQ16 t) v.toInt ∧ Config.dewB - dewG (tempQ16 t) v.toInt ≤ 2148866275) := by
  have hvlo : -2147483648 ≤ v.toInt := BitVec.le_toInt v
  have hT := tempQ16_range t
  have hM := dewM_range t
  have hA : Config.dewA = 15927869 := rfl
  have hB : Config.dewB = 1155072 := rfl
  rw [hA, hB, dewG]
  omega

/-- The dew point rises with TRAW and with a value of at most 0. -/
theorem dewOf_mono {t t' : U16} {v v' : Word32} (ht : t ≤ t') (hv : v.toInt ≤ v'.toInt) (hv' : v'.toInt ≤ 0) :
    dewOf t v ≤ dewOf t' v' := by
  have hG := dewG_le t' hv'
  have hB : Config.dewB = 1155072 := rfl
  exact dewQ16_mono (dewS_pos t) (by omega) (tempQ16_mono ht) hv

/-- The values of the reference table are at least that of entry 1, which bounds the dew point from below. -/
theorem dewOf_lutRef_ge (t : U16) {h : U16} {i : Nat} (hl : lookup lutRef h = .hit i) :
    -5005583 ≤ dewOf t (lutValue lutRef i) := by
  obtain ⟨h1, h100, -⟩ := inBucket_of_lookup_hit lutWF_lutRef hl
  have hcorner : dewOf 0#16 (lutValue lutRef 1) = -5005583 := by decide +kernel
  exact hcorner ▸ dewOf_mono (Nat.zero_le _) (lutValue_mono lutWF_lutRef (le_refl 1) h1 h100)
    (lutValue_nonpos_of_hit lutWF_lutRef hl)

/-- The reported values of a dew point between two bounds lie between those of the bounds. -/
theorem readings_between {lo hi q : Int} (hlo : lo ≤ q) (hhi : q ≤ hi) :
    (whole lo ≤ whole q ∧ whole q ≤ whole hi) ∧ (fahrQ16 lo ≤ fahrQ16 q ∧ fahrQ16 q ≤ fahrQ16 hi) ∧
      (whole (fahrQ16 lo) ≤ whole (fahrQ16 q) ∧ whole (fahrQ16 q) ≤ whole (fahrQ16 hi)) :=
  ⟨⟨whole_mono hlo, whole_mono hhi⟩, ⟨fahrQ16_mono hlo, fahrQ16_mono hhi⟩,
    whole_mono (fahrQ16_mono hlo), whole_mono (fahrQ16_mono hhi)⟩

/-- Settles O49: the nodes before the last division are monotone or linear between the corners, the dew point and its readings are monotone. -/
theorem dewPointRanges : Obligations.DewPointRanges := by
  refine ⟨fun lut hw t h i hl => ?_, fun t h i hl => ?_⟩
  · have hv := lutValue_nonpos_of_hit hw hl
    obtain ⟨hP, hS, hG, hNum, hDen⟩ := dewNodes_range t hv
    obtain ⟨hlo, hhi⟩ := dewOf_range t hv
    obtain ⟨hwhole, hfahr, hwholeFahr⟩ := readings_between hlo hhi
    exact ⟨tempQ16_range t, hP, hS, dewM_range t, hG, hNum, hDen, ⟨hlo, hhi⟩, hwhole, by omega, hfahr, hwholeFahr⟩
  · have hlo := dewOf_lutRef_ge t hl
    obtain ⟨-, hhi⟩ := dewOf_range t (lutValue_nonpos_of_hit lutWF_lutRef hl)
    obtain ⟨hwhole, hfahr, hwholeFahr⟩ := readings_between hlo hhi
    exact ⟨⟨hlo, hhi⟩, hwhole, hfahr, hwholeFahr⟩

/-! ## The four commands as readings of one dew point -/

/-- Each dew-point command is a reading of the Q16 Celsius dew point. -/
theorem exists_reading_of_mem_dewCommands {i : Instr} (hi : i ∈ dewCommands) :
    ∃ k, Reading k ∧ conversionOf i = some (throughLookup fun t v => toResult (k (dewOf t v))) := by
  simp only [dewCommands, List.mem_cons, List.not_mem_nil, or_false] at hi
  obtain rfl | rfl | rfl | rfl := hi
  · exact ⟨_, reading_whole, rfl⟩
  · exact ⟨_, reading_self, rfl⟩
  · exact ⟨_, reading_whole_fahrQ16, rfl⟩
  · exact ⟨_, reading_fahrQ16, rfl⟩

/-- On a hit a dew-point command completes with its reading of the dew point, and with MISS 0. -/
theorem completes_dew_of_lookup_hit {i : Instr} {k : Int → Int} (hk : Reading k)
    (hf : conversionOf i = some (throughLookup fun t v => toResult (k (dewOf t v)))) {s : State} (hr : Ready s) {j : Nat}
    (hl : lookup s.lut s.hraw = .hit j) : Completes i s (k (dewOf s.traw (lutValue s.lut j))) false := by
  obtain ⟨hlo, hhi⟩ := dewOf_range s.traw (lutValue_nonpos_of_hit hr.lutWF hl)
  rw [← toInt_toResult_reading hk hlo (by omega)]
  exact completes_of_lookup_hit hf hr hl

/-- Settles O50: the selected value rises with HRAW, the dew point with TRAW and the value, and each command is a monotone reading of it. -/
theorem dewPointMonotone : Obligations.DewPointMonotone := by
  intro s s' hr hr' hlut ht hh hm hm' i hi
  obtain ⟨k, hk, hf⟩ := exists_reading_of_mem_dewCommands hi
  obtain ⟨j, hl⟩ := exists_lookup_hit_of_not_misses hr.lutWF hm
  obtain ⟨j', hl'⟩ := exists_lookup_hit_of_not_misses hr'.lutWF hm'
  refine exists_results_of_completes (completes_dew_of_lookup_hit hk hf hr hl)
    (completes_dew_of_lookup_hit hk hf hr' hl') (hk.mono (dewOf_mono ht ?_ (lutValue_nonpos_of_hit hr'.lutWF hl')))
  rw [hlut] at hl ⊢
  exact lutValue_mono_of_hit hr'.lutWF hh hl hl'

/-- Settles O52: the bucket fixes the selected value, and a command through the lookup reads TRAW and that value only. -/
theorem sameBucketSameDewPoint : Obligations.SameBucketSameDewPoint := by
  intro s s' k hr hr' hlut ht hb hb' i hi
  obtain ⟨r, -, hf⟩ := exists_reading_of_mem_dewCommands hi
  have hl := lookup_eq_hit_of_inBucket hr.lutWF hb
  have hl' := lookup_eq_hit_of_inBucket hr.lutWF hb'
  rw [hlut] at hl hl'
  refine ⟨_, _, exec_eq_latch hf hr, exec_eq_latch hf hr', ?_⟩
  simp [hlut, ht, throughLookup_hit hl, throughLookup_hit hl']

end Sys2Proof.Machine

/-! # The dew-point family: a chain in 64-bit words computes the integers' chain (R7, R9) -/

namespace Sys2Proof.Machine

/-- The 64-bit two's-complement word of an integer. -/
def word64 (v : Int) : Word64 := BitVec.ofInt 64 v

/-- A value in the signed 64-bit range survives in its word. -/
theorem toInt_word64 {v : Int} (hlo : -9223372036854775808 ≤ v) (hhi : v ≤ 9223372036854775807) :
    (word64 v).toInt = v := by
  rw [word64, BitVec.toInt_ofInt, Int.bmod_eq_of_le] <;> omega

/-- The sum of two words is the word of the sum. -/
theorem word64_add (a b : Int) : word64 a + word64 b = word64 (a + b) := (BitVec.ofInt_add a b).symm

/-- The product of two words is the word of the product. -/
theorem word64_mul (a b : Int) : word64 a * word64 b = word64 (a * b) := (BitVec.ofInt_mul a b).symm

/-- The difference of two words is the word of the difference. -/
theorem word64_sub (a b : Int) : word64 a - word64 b = word64 (a - b) := by
  rw [BitVec.sub_eq_add_neg, word64, word64, ← BitVec.ofInt_neg, ← BitVec.ofInt_add, ← sub_eq_add_neg]
  rfl

/-- Division by a positive word is the integers' truncating division. -/
theorem sdivWord64_word64 {a b : Int} (halo : -9223372036854775808 ≤ a) (hahi : a ≤ 9223372036854775807) (hb : 0 < b)
    (hbhi : b ≤ 9223372036854775807) : sdivWord64 (word64 a) (word64 b) = word64 (sdiv a b) := by
  have ha' := toInt_word64 halo hahi
  have hb' := toInt_word64 (v := b) (by omega) hbhi
  have hne : word64 b ≠ 0#64 := fun h0 => by
    rw [h0, BitVec.toInt_zero] at hb'
    omega
  apply BitVec.eq_of_toInt_eq
  rw [sdivWord64_of_ne_zero hne, BitVec.toInt_sdiv, ha', hb', sdiv_of_ne_zero hb.ne', word64, BitVec.toInt_ofInt]

/-- The node T is the Q16 Celsius temperature: its 32-bit word is exact, and widening keeps it. -/
theorem tempWord64_eq (t : U16) : tempWord64 t = word64 (tempQ16 t) := by
  obtain ⟨hlo, hhi⟩ := tempQ16_range t
  rw [tempWord64, tempWord32_eq_toResult, BitVec.signExtend, toInt_toResult (by omega) (by omega), word64]

/-- For a value of at most 0 every node of the chain fits 64 bits and both divisors are positive, so the words follow the integers node by node. -/
theorem dewWord64_eq (t : U16) {v : Word32} (hv : v.toInt ≤ 0) : dewWord64 t v = word64 (dewOf t v) := by
  obtain ⟨⟨hPlo, hPhi⟩, ⟨hSlo, hShi⟩, -, ⟨hNlo, hNhi⟩, ⟨hDlo, hDhi⟩⟩ := dewNodes_range t hv
  have hA : 15927869#64 = word64 Config.dewA := rfl
  have hB : 1155072#64 = word64 Config.dewB := rfl
  have hln : v.signExtend 64 = word64 v.toInt := rfl
  have hM : sdivWord64 (word64 (Config.dewB * tempQ16 t)) (word64 (Config.dewA + tempQ16 t)) =
      word64 (dewM (tempQ16 t)) := sdivWord64_word64 (by omega) (by omega) (by omega) (by omega)
  have hG : v.toInt + dewM (tempQ16 t) = dewG (tempQ16 t) v.toInt := rfl
  simp only [dewWord64, tempWord64_eq, hA, hB, hln, word64_add, word64_mul, word64_sub, hM, hG]
  exact sdivWord64_word64 (by omega) (by omega) (by omega) (by omega)

/-- The low 32 bits of a 64-bit word are what RESULT takes of its integer. -/
theorem truncate_eq_toResult (w : Word64) : w.truncate 32 = toResult w.toInt :=
  (BitVec.signExtend_eq_setWidth_of_le w (by decide)).symm

/-- The dew point fits 64 bits, so the chain in words has its value. -/
theorem toInt_dewWord64 (t : U16) {v : Word32} (hv : v.toInt ≤ 0) : (dewWord64 t v).toInt = dewOf t v := by
  obtain ⟨hlo, hhi⟩ := dewOf_range t hv
  rw [dewWord64_eq t hv, toInt_word64 (by omega) (by omega)]

/-- Settles O51: the words follow the integers, and RESULT narrows either one alike. -/
theorem wordChainEqualsIntegerChain : Obligations.WordChainEqualsIntegerChain := by
  refine ⟨fun t v => toInt_dewWord64 t, fun s i hr hl => ⟨_, exec_eq_latch rfl hr, ?_⟩⟩
  rw [latch_result, throughLookup_hit hl, truncate_eq_toResult, toInt_dewWord64 _ (lutValue_nonpos_of_hit hr.lutWF hl)]

end Sys2Proof.Machine

/-! # Across the families: what a conversion reads (R30), what it sees right after LDS (R116), and how the commands of a family agree (Q2, Q3 of spec/95_test_vectors.md section 4) -/

namespace Sys2Proof.Machine

open Sys2Proof.Claims

/-! ## Commands that read the same operands -/

/-- Two ready engines in which a conversion's function has one value get the same RESULT and MISS from it. -/
theorem exists_same_results {i : Instr} {f : U16 → U16 → List LutEntry → Conversion} (hf : conversionOf i = some f)
    {s s' : State} (hr : Ready s) (hr' : Ready s') (h : f s.traw s.hraw s.lut = f s'.traw s'.hraw s'.lut) :
    ∃ t t', exec i s = .next t ∧ exec i s' = .next t' ∧ t.result = t'.result ∧ t.miss = t'.miss :=
  ⟨_, _, exec_eq_latch hf hr, exec_eq_latch hf hr', by rw [latch_result, latch_result, h],
    by rw [latch_miss, latch_miss, h]⟩

/-- Settles O55: each family's function has the operands named, and no others. -/
theorem conversionsReadOnlyTheirOperands : Obligations.ConversionsReadOnlyTheirOperands := by
  refine ⟨fun s s' hr hr' ht i hi => ?_, fun s s' hr hr' hh i hi => ?_, fun s s' hr hr' hh hl => ?_,
    fun s s' hr hr' ht hh hl i hi => ?_⟩
  · obtain ⟨k, -, hf⟩ := exists_reading_of_mem hi
    exact exists_same_results hf hr hr' (by rw [ofTemperature, ofTemperature, ht])
  · obtain ⟨k, -, hf⟩ := exists_reading_of_mem_humidityCommands hi
    exact exists_same_results hf hr hr' (by rw [ofHumidity, ofHumidity, hh])
  · refine exists_same_results conversionOf_lnh hr hr' ?_
    rw [hh, hl]
    rfl
  · obtain ⟨k, -, hf⟩ := exists_reading_of_mem_dewCommands hi
    exact exists_same_results hf hr hr' (by rw [ht, hh, hl])

/-- An accepting engine is ready after LDS. -/
theorem ready_load (a : Word32) {s : State} (ha : Accepting s) :
    Ready { s with sample := a, status := Flags.sampleLoaded s.status } := by
  obtain ⟨hw, he⟩ := ha
  exact ⟨⟨hw, (err_load a s).trans he⟩, sv_load a s⟩

/-- Settles O23: after LDS the engine is ready and holds the sample, and a conversion reads the sample and the table only. -/
theorem conversionAfterLoadSeesNewSample : Obligations.ConversionAfterLoadSeesNewSample := by
  intro s s' arg ha hr' hs hl i hi
  obtain ⟨f, hf⟩ := conversionOf_of_isConversion (isConversion_of_mem i hi)
  have hr := ready_load arg ha
  obtain ⟨hw, he⟩ := ha
  subst hs
  refine ⟨_, _, _, exec_lds_of_running _ hw he, exec_eq_latch hf hr, exec_eq_latch hf hr', ?_, ?_, latch_rv _ _⟩
  · rw [latch_result, latch_result, hl]; rfl
  · rw [latch_miss, latch_miss, hl]; rfl

/-! ## Whole-unit commands against Q16 commands -/

/-- `i` completes with the whole value of what `j` completes with, and with the same MISS. -/
def Truncates (i j : Instr) (s : State) : Prop := ∃ v m, Completes i s (whole v) m ∧ Completes j s v m

/-- A whole-unit dew-point command truncates its Q16 command, on a hit and on a miss. -/
theorem truncates_dew {i j : Instr} {k : Int → Int} (hk : Reading k) (hkw : Reading fun q => whole (k q))
    (hi : conversionOf i = some (throughLookup fun t v => toResult (whole (k (dewOf t v)))))
    (hj : conversionOf j = some (throughLookup fun t v => toResult (k (dewOf t v)))) {s : State} (hr : Ready s) :
    Truncates i j s := by
  cases hl : lookup s.lut s.hraw with
  | hit n => exact ⟨_, _, completes_dew_of_lookup_hit hkw hi hr hl, completes_dew_of_lookup_hit hk hj hr hl⟩
  | miss =>
    have hm := (lookup_eq_miss_iff_misses hr.lutWF).mp hl
    exact ⟨0, true, completes_of_misses hi hr hm, completes_of_misses hj hr hm⟩

/-- Every whole-unit command truncates its Q16 command. -/
theorem truncates_of_mem {s : State} (hr : Ready s) {p : Instr × Instr}
    (hp : p ∈ [(Instr.tc, Instr.tcq), (.tf, .tfq), (.rh, .rhq), (.dc, .dcq), (.df, .dfq)]) : Truncates p.1 p.2 s := by
  simp only [List.mem_cons, List.not_mem_nil, or_false] at hp
  obtain rfl | rfl | rfl | rfl | rfl := hp
  · exact ⟨_, _, completes_temperature reading_whole rfl hr, completes_temperature reading_self rfl hr⟩
  · exact ⟨_, _, completes_temperature reading_whole_fahrQ16 rfl hr, completes_temperature reading_fahrQ16 rfl hr⟩
  · exact ⟨_, _, completes_humidity reading_whole rfl hr, completes_humidity reading_self rfl hr⟩
  · exact truncates_dew reading_self reading_whole rfl rfl hr
  · exact truncates_dew reading_fahrQ16 reading_whole_fahrQ16 rfl rfl hr

/-- Settles O56: a whole-unit command and its Q16 command read one quantity, and DFQ reads the Fahrenheit value of what DCQ reads. -/
theorem wholeCommandsTruncateQ16 : Obligations.WholeCommandsTruncateQ16 := by
  refine ⟨fun s hr p hp => ?_, fun s hr => ?_⟩
  · obtain ⟨v, m, ⟨t, hx, hv, -, hm, -⟩, ⟨t', hx', hv', -, hm', -⟩⟩ := truncates_of_mem hr hp
    exact ⟨t, t', hx, hx', by rw [hv, hv', units_eq_whole], by rw [hm, hm']⟩
  · cases hl : lookup s.lut s.hraw with
    | hit n =>
      have hno : ¬ Misses s.lut s.hraw := fun hm => by
        rw [lookup_eq_miss_of_misses hr.lutWF hm] at hl
        cases hl
      obtain ⟨t, hx, hv, -⟩ := completes_dew_of_lookup_hit reading_self (i := .dcq) rfl hr hl
      obtain ⟨t', hx', hv', -⟩ := completes_dew_of_lookup_hit reading_fahrQ16 (i := .dfq) rfl hr hl
      exact ⟨t, t', hx, hx', fun _ => by rw [hv, hv', fahrenheit_eq_fahrQ16], fun hm => absurd hm hno⟩
    | miss =>
      have hm := (lookup_eq_miss_iff_misses hr.lutWF).mp hl
      refine ⟨_, _, exec_eq_latch rfl hr, exec_eq_latch rfl hr, fun hno => absurd hm hno, fun _ => ?_⟩
      simp [throughLookup_miss hl]

end Sys2Proof.Machine
